-- ==== Sys2Proof/Word.lean ====
section
/-! DEFINITION. The word types of the block: the 32-bit register and command word (R20, R80), the byte every buffer access
moves (R57), and the four-bit field of the command word and of `STATUS` (R22, R80). -/

namespace Sys2Proof

/-- A 32-bit word of the space `REG` (R20, R51). -/
abbrev Word := BitVec 32

/-- One byte of a buffer (R51, R57). -/
abbrev Byte := BitVec 8

/-- The stored half of `WIDTH` and `HEIGHT`, bits 15:0 (R23, R24). -/
abbrev Half := BitVec 16

/-- A four-bit field: `OP`, `ALG`, `ERRCODE`, `ERRSUB` (R22, R80). -/
abbrev Nibble := BitVec 4

end Sys2Proof
end

