-- ==== Sys2Proof/Syntax.lean ====
section
/-! DEFINITION. The commands of the block: one constructor per row of spec/opcode_table.json (R94, R96). A constructor carries
EVERY field of the word its row leaves open, the ones the operation ignores (R86) too, because `REG.CMD` stores all 32 bits as
written (R21). -/

namespace Sys2Proof

/-- A command of the block. Field names are those of R80: `alg` is bits 27:24, `thresh` bits 23:16, `msize` bits 15:8 and `inv`
bit 0; bits 7:1 are 0 in every command (R85). -/
inductive Instr where
  /-- `Q.FLAT`: `OP = 1`, `ALG = 0` (R113); `thresh` and `msize` are ignored -/
  | qFlat (thresh msize : Byte) (inv : Bool)
  /-- `Q.FS`: `OP = 1`, `ALG = 1` (R145); `msize` is ignored -/
  | qFs (thresh msize : Byte) (inv : Bool)
  /-- `Q.BAYER`: `OP = 1`, `ALG = 2` (R125); `msize` is `N_raw` -/
  | qBayer (thresh msize : Byte) (inv : Bool)
  /-- `Q.ATK`: `OP = 1`, `ALG = 3` (R146); `msize` is ignored -/
  | qAtk (thresh msize : Byte) (inv : Bool)
  /-- `Q.JAR`: `OP = 1`, `ALG = 4` (R147); `msize` is ignored -/
  | qJar (thresh msize : Byte) (inv : Bool)
  /-- `Q.STU`: `OP = 1`, `ALG = 5` (R148); `msize` is ignored -/
  | qStu (thresh msize : Byte) (inv : Bool)
  /-- `Q.BUR`: `OP = 1`, `ALG = 6` (R149); `msize` is ignored -/
  | qBur (thresh msize : Byte) (inv : Bool)
  /-- `Q.SIE`: `OP = 1`, `ALG = 7` (R150); `msize` is ignored -/
  | qSie (thresh msize : Byte) (inv : Bool)
  /-- `Q.SIL`: `OP = 1`, `ALG = 8` (R151); `msize` is ignored -/
  | qSil (thresh msize : Byte) (inv : Bool)
  /-- `Q.FALLBACK.9`: `OP = 1`, `ALG = 9`, unsupported (R88, R96) -/
  | qFallback9 (thresh msize : Byte) (inv : Bool)
  /-- `Q.FALLBACK.AB`: `OP = 1`, `alg` 10 or 11, unsupported (R88, R96) -/
  | qFallbackAB (alg : Nibble) (thresh msize : Byte) (inv : Bool)
  /-- `Q.FALLBACK.CF`: `OP = 1`, `alg` 12 to 15, unsupported (R88, R96) -/
  | qFallbackCF (alg : Nibble) (thresh msize : Byte) (inv : Bool)
  /-- `PACK`: `OP = 2` (R170); every field is ignored -/
  | pack (alg : Nibble) (thresh msize : Byte) (inv : Bool)
  /-- `FRAME`: `OP = 3` (R185); every field is ignored -/
  | frame (alg : Nibble) (thresh msize : Byte) (inv : Bool)
  /-- `ENCODE`: `OP = 4` (R188); every field is ignored -/
  | encode (alg : Nibble) (thresh msize : Byte) (inv : Bool)
  /-- `CONVERT`: `OP = 5` (R189); `alg` is `alg_raw`, `msize` is `N_raw` -/
  | convert (alg : Nibble) (thresh msize : Byte) (inv : Bool)
  /-- `CLR`: `OP = 0xF` (R190); every field is ignored -/
  | clr (alg : Nibble) (thresh msize : Byte) (inv : Bool)
deriving DecidableEq, Repr

end Sys2Proof
end

