-- ==== Sys2Proof/WellFormed.lean ====
section
/-! DEFINITION. Which terms of `Instr` stand for a word of their own row. All field widths are in the types; the one thing left
to check is the `ALG` value of the two rows of opcode_table.json that cover several unsupported values (R96). -/

namespace Sys2Proof

/-- `alg` lies in the row `Q.FALLBACK.AB`: match 0x1A000000, mask 0xFE0000FE (R96). -/
def algInRowAB (alg : Nibble) : Bool := alg == 10#4 || alg == 11#4

/-- `alg` lies in the row `Q.FALLBACK.CF`: match 0x1C000000, mask 0xFC0000FE (R96). -/
def algInRowCF (alg : Nibble) : Bool := decide (12#4 ≤ alg)

/-- The term stands for a word of its own row of the opcode table. -/
def Instr.wellFormed : Instr → Bool
  | .qFlat _ _ _ => true
  | .qFs _ _ _ => true
  | .qBayer _ _ _ => true
  | .qAtk _ _ _ => true
  | .qJar _ _ _ => true
  | .qStu _ _ _ => true
  | .qBur _ _ _ => true
  | .qSie _ _ _ => true
  | .qSil _ _ _ => true
  | .qFallback9 _ _ _ => true
  | .qFallbackAB alg _ _ _ => algInRowAB alg
  | .qFallbackCF alg _ _ _ => algInRowCF alg
  | .pack _ _ _ _ => true
  | .frame _ _ _ _ => true
  | .encode _ _ _ _ => true
  | .convert _ _ _ _ => true
  | .clr _ _ _ _ => true

end Sys2Proof
end

