-- ==== Sys2Proof/Decode.lean ====
section
/-! DEFINITION. From a command word to a command (R80, R81, R84, R87), total, rejecting by name; and back. The word has no byte
order: it is written to `REG.CMD` whole (R51; DEDUCED, entry 17). -/

namespace Sys2Proof

/-! ### The fields of the word (R80, R82) -/

/-- `OP`, bits 31:28. -/
def opField (w : Word) : Nibble := w.extractLsb' 28 4
/-- `ALG`, bits 27:24. -/
def algField (w : Word) : Nibble := w.extractLsb' 24 4
/-- `THRESH`, bits 23:16. -/
def threshField (w : Word) : Byte := w.extractLsb' 16 8
/-- `MSIZE`, bits 15:8. -/
def msizeField (w : Word) : Byte := w.extractLsb' 8 8
/-- The reserved bits 7:1. -/
def reservedField (w : Word) : BitVec 7 := w.extractLsb' 1 7
/-- `INVERT`, bit 0. -/
def invertField (w : Word) : Bool := w.getLsbD 0

/-- Why a word selects no row of the opcode table (R85, R89). -/
inductive DecodeError where
  /-- bits 7:1 are not all 0 (R85) -/
  | reservedBits
  /-- `OP` is 0x0 or 0x6 to 0xE (R89) -/
  | reservedOp
deriving DecidableEq, Repr

/-- The nine `QUANT` rows and the three fallback rows, by `ALG` (R84, R96). -/
def decodeQuant (alg : Nibble) (t m : Byte) (inv : Bool) : Instr :=
  if alg = 0#4 then .qFlat t m inv
  else if alg = 1#4 then .qFs t m inv
  else if alg = 2#4 then .qBayer t m inv
  else if alg = 3#4 then .qAtk t m inv
  else if alg = 4#4 then .qJar t m inv
  else if alg = 5#4 then .qStu t m inv
  else if alg = 6#4 then .qBur t m inv
  else if alg = 7#4 then .qSie t m inv
  else if alg = 8#4 then .qSil t m inv
  else if alg = 9#4 then .qFallback9 t m inv
  else if algInRowAB alg then .qFallbackAB alg t m inv
  else .qFallbackCF alg t m inv

/-- The classification of a word by its bits alone, in the order of R87: reserved bits first, then `OP`. -/
def decode (w : Word) : Except DecodeError Instr :=
  if reservedField w ≠ 0#7 then .error .reservedBits
  else if opField w = 0x1#4 then .ok (decodeQuant (algField w) (threshField w) (msizeField w) (invertField w))
  else if opField w = 0x2#4 then .ok (.pack (algField w) (threshField w) (msizeField w) (invertField w))
  else if opField w = 0x3#4 then .ok (.frame (algField w) (threshField w) (msizeField w) (invertField w))
  else if opField w = 0x4#4 then .ok (.encode (algField w) (threshField w) (msizeField w) (invertField w))
  else if opField w = 0x5#4 then .ok (.convert (algField w) (threshField w) (msizeField w) (invertField w))
  else if opField w = 0xF#4 then .ok (.clr (algField w) (threshField w) (msizeField w) (invertField w))
  else .error .reservedOp

/-! ### The encoder -/

/-- The word with the given fields and bits 7:1 zero: `(OP << 28) | (ALG << 24) | (T << 16) | (N << 8) | INV` (R80, R94). -/
def commandWord (op alg : Nibble) (thresh msize : Byte) (inv : Bool) : Word :=
  op ++ alg ++ thresh ++ msize ++ 0#7 ++ BitVec.ofBool inv

/-- The word of a command, from the encodings of R80, R81, R84 and R96. -/
def encode : Instr → Word
  | .qFlat t m inv => commandWord 0x1 0 t m inv
  | .qFs t m inv => commandWord 0x1 1 t m inv
  | .qBayer t m inv => commandWord 0x1 2 t m inv
  | .qAtk t m inv => commandWord 0x1 3 t m inv
  | .qJar t m inv => commandWord 0x1 4 t m inv
  | .qStu t m inv => commandWord 0x1 5 t m inv
  | .qBur t m inv => commandWord 0x1 6 t m inv
  | .qSie t m inv => commandWord 0x1 7 t m inv
  | .qSil t m inv => commandWord 0x1 8 t m inv
  | .qFallback9 t m inv => commandWord 0x1 9 t m inv
  | .qFallbackAB alg t m inv => commandWord 0x1 alg t m inv
  | .qFallbackCF alg t m inv => commandWord 0x1 alg t m inv
  | .pack alg t m inv => commandWord 0x2 alg t m inv
  | .frame alg t m inv => commandWord 0x3 alg t m inv
  | .encode alg t m inv => commandWord 0x4 alg t m inv
  | .convert alg t m inv => commandWord 0x5 alg t m inv
  | .clr alg t m inv => commandWord 0xF alg t m inv

/-! ### The table's numbering -/

/-- The command word whose low `nbits` bits are those of `w` and whose other bits are 0. -/
def tableWord (nbits w : Nat) : Word := BitVec.ofNat 32 (w % 2 ^ nbits)

/-- What the decoder reads from a word given with the bit numbers of spec/opcode_table.json (bit 0 least significant, R80). -/
def decodeTableWord (nbits w : Nat) : Option Instr :=
  match decode (tableWord nbits w) with
  | .ok i => some i
  | .error _ => none

end Sys2Proof
end

