-- ==== Sys2Proof/Config.lean ====
section
/-! DEFINITION. What an implementation fixes (the open parameters of 00_scope.md R7) and the two free values the spec calls
unspecified (R36, R63). -/

namespace Sys2Proof

/-- The four byte-addressed spaces (R50). The fifth space, `REG`, is addressed by word index. -/
inductive Space where
  | pix
  | mono
  | payload
  | frame
deriving DecidableEq, Repr

/-- One tap of an error-diffusion kernel: the offset of the neighbour and the numerator of its share (R140). -/
structure Tap where
  /-- columns to the right; negative to the left -/
  dx : Int
  /-- rows down -/
  dy : Nat
  /-- the numerator of the share -/
  num : Nat
deriving DecidableEq, Repr

/-- An error-diffusion kernel: the denominator and the taps in the listed order (R140). -/
structure Kernel where
  den : Nat
  taps : List Tap
deriving DecidableEq, Repr

/-- How a tie of working value and threshold is decided (R7, R141). -/
inductive EdCmp where
  | ge
  | gt
deriving DecidableEq, Repr

/-- The open parameters of R7. They are parameters of the step relation (`stepIn`, `execIn`), not state (R35). -/
structure Config where
  /-- `MAXPIX`: the raster capacity in pixels (R7, R27) -/
  maxPix : Nat
  /-- `MAXPIX` is at least 23040, the pixels of the frame geometry (R7, D13) -/
  maxPix_ge : 23040 ≤ maxPix
  /-- `STRICT_PARAMS`: reject an unsupported parameter instead of replacing it (R7, R88) -/
  strictParams : Bool
  /-- `ED_CMP` (R7, R141) -/
  edCmp : EdCmp
  /-- `NUM.share(e, n, d)` (R7, R143) -/
  share : Rat → Nat → Nat → Rat
  /-- `NUM.bayerValue(N, m)` (R7, R124) -/
  bayerValue : Nat → Nat → Rat
  /-- `NUM.half(T)` (R7, R125) -/
  half : Nat → Rat
  /-- `KERNEL[JAR]` (R7, R147) -/
  jar : Kernel
  /-- `KERNEL[STU]` (R7, R148) -/
  stu : Kernel
  /-- `KERNEL[BUR]` (R7, R149) -/
  bur : Kernel
  /-- `KERNEL[SIE]` (R7, R150) -/
  sie : Kernel

/-- `PAYCAP = ceil(MAXPIX / 8)` (R7, R29). -/
def Config.payCap (c : Config) : Nat := (c.maxPix + 7) / 8

/-- DESIGN CHOICE (entry 5). FREE VALUE. The byte that an index of a buffer shows while nothing has written it since the
reset numbered by the first argument: "an arbitrary value fixed at reset (a draw)" (R36, R250, U1). No body: nothing can be
proved of it. Safe. -/
opaque Config.resetByte : Nat → Space → Nat → Byte

/-- DESIGN CHOICE (entry 6). FREE VALUE. The unspecified byte that a read of a buffer returns while the running command writes
that buffer; a fresh draw per read, numbered by the argument (R63, U3). No body. Safe. -/
opaque Config.busyByte : Nat → Byte

end Sys2Proof
end

