-- ==== Sys2Proof/Machine/State.lean ====
section
/-! DEFINITION. The state of the machine (10_state.md), plain data, its value after reset (R36), and the reasons a step can
stop. -/

namespace Sys2Proof.Machine

/-! ### What a command selects -/

/-- The seven error-diffusion kernels (R84, R145 to R151). -/
inductive KernelName where
  | fs | atk | jar | stu | bur | sie | sil
deriving DecidableEq, Repr

/-- The supported Bayer matrix sizes (R6, R88). -/
inductive MatrixSize where
  | n2 | n4 | n8
deriving DecidableEq, Repr

/-- An effective algorithm; the matrix size stands where it is read, in ordered dithering only (R84, R88). -/
inductive Algorithm where
  | flat
  | ordered (n : MatrixSize)
  | diffusion (k : KernelName)
deriving DecidableEq, Repr

/-- The effective parameters of a quantiser (R88, R112). -/
structure QuantParams where
  algorithm : Algorithm
  /-- the threshold `T` -/
  thresh : Byte
  /-- the invert flag `inv` -/
  inv : Bool
deriving DecidableEq, Repr

/-- The accepted command, as the hidden `latch` holds it: the operation, its effective parameters, and `W` and `H` as read at
issue (R32). DEDUCED (entry 13): `FRAME` reads neither `WIDTH` nor `HEIGHT` (R185) and latches none. -/
inductive Job where
  | quant (w h : Nat) (p : QuantParams)
  | pack (w h : Nat)
  | frame
  | encode (w h : Nat)
  | convert (w h : Nat) (p : QuantParams)
deriving DecidableEq, Repr

/-! ### The parts of the state -/

/-- The stored fields of `REG.STATUS` (R22); bits 31:12 are not stored and read as 0. -/
structure Status where
  busy : Bool
  done : Bool
  err : Bool
  unsup : Bool
  errCode : Nibble
  errSub : Nibble
deriving DecidableEq, Repr

/-- The phase of the scan index (R31). -/
inductive Phase where
  | idle | quantise | packing | framing
deriving DecidableEq, Repr

/-- The hidden scan index `seq` = (phase, k) (R31). -/
structure Seq where
  phase : Phase
  k : Nat
deriving DecidableEq, Repr

/-- The contents of one buffer: the bytes written since reset, as (index, byte) pairs with strictly rising indices. An unlisted index has not
been written since reset (entry 5). -/
abbrev Memory := List Host.Cell

/-- One action on the block from outside, in the order in which they take effect (R60; entry 1). -/
inductive Input where
  /-- `HostWrite(REG, index, value)` (R51) -/
  | regWrite (index : Nat) (value : Word)
  /-- `HostRead(REG, index)` (R51) -/
  | regRead (index : Nat)
  /-- `HostWrite(space, index, value)` (R51) -/
  | bufWrite (space : Space) (index : Nat) (value : Byte)
  /-- `HostRead(space, index)` (R51) -/
  | bufRead (space : Space) (index : Nat)
  /-- the host does nothing while the block advances by `n` scan positions (R31, R260) -/
  | scan (n : Nat)
  /-- reset arrives (R250) -/
  | reset
deriving DecidableEq, Repr

/-- The whole state: the registers (R20), the buffers (R27 to R30), the hidden state (R31 to R33), and the model's own fields
for the agents outside the block. -/
structure State where
  /-- `REG.CMD` (R21) -/
  cmd : Word
  /-- `REG.STATUS` (R22) -/
  status : Status
  /-- `REG.WIDTH` bits 15:0 (R23) -/
  width : Half
  /-- `REG.HEIGHT` bits 15:0 (R24) -/
  height : Half
  /-- `REG.PLEN` (R25) -/
  plen : Word
  /-- `REG.FLEN` (R26) -/
  flen : Word
  /-- `PIX` (R27) -/
  pix : Memory
  /-- `MONO` (R28) -/
  mono : Memory
  /-- `PAYLOAD` (R29) -/
  payload : Memory
  /-- `FRAME` (R30) -/
  frame : Memory
  /-- the scan index (R31) -/
  seq : Seq
  /-- the accepted command, from acceptance to completion (R32); `none` while no command is running (entry 8) -/
  latch : Option Job
  /-- the error-diffusion working buffer (R33); empty when it does not exist (entry 8) -/
  work : List Rat
  /-- MODEL's own: the host's and the reset input's actions still to come (entry 1) -/
  inputs : List Input
  /-- MODEL's own: the value the last `HostRead` returned (entry 7) -/
  rdata : Word
  /-- MODEL's own: how many resets have arrived; selects the draw of unwritten bytes (entry 5) -/
  epoch : Nat
  /-- MODEL's own: how many unspecified bytes reads have returned (entry 6) -/
  draws : Nat
deriving DecidableEq, Repr

/-- All fields of `STATUS` zero (R36). -/
def Status.zero : Status :=
  { busy := false, done := false, err := false, unsup := false, errCode := 0, errSub := 0 }

/-- The idle scan index (R36). -/
def Seq.idle : Seq := { phase := .idle, k := 0 }

/-- The machine right after reset (R36, R251): registers 0, `seq` idle, every buffer byte unwritten. DESIGN CHOICE (entries 1, 5
to 8): `latch` and `WORK` absent, the model's own fields empty or 0. -/
def State.reset : State :=
  { cmd := 0, status := .zero, width := 0, height := 0, plen := 0, flen := 0,
    pix := [], mono := [], payload := [], frame := [],
    seq := .idle, latch := none, work := [],
    inputs := [], rdata := 0, epoch := 0, draws := 0 }

/-! ### The reasons a step can stop -/

/-- The block has no fault: nothing in it is stuck and an accepted command cannot fail (R218; 93_implementation_defined.md
part 1), so this type has no constructor (DEDUCED, entry 19). -/
inductive Fault
deriving DecidableEq, Repr

/-- Why the model gives an action no step. -/
inductive Refusal where
  /-- Reserved by the host of this package for a command without a meaning; no arm raises it. Safe. -/
  | notModelled (mnemonic : String)
  /-- Raised by a host access whose index lies outside its buffer: "a model gives such an access no step (it is refused)"
  (R52, U5). No command raises it. Safe. -/
  | bufferIndexOutOfRange (space : Space) (index : Nat)
deriving DecidableEq, Repr

end Sys2Proof.Machine
end

