-- ==== Sys2Proof/Machine/Flags.lean ====
section
/-! DEFINITION. `REG.STATUS`: its word (R22), the causes of a rejection with their codes (R211), and the four ways a command
changes it (R38). There is no other flag and no arithmetic sets one (R38). -/

namespace Sys2Proof.Machine

/-- The sub-causes of a rejection (R211). -/
inductive Cause where
  | zeroArea
  | capacity
  | notByteAligned
  | targetMismatch
  | algRange
  | matrixSize
  | reservedOp
  | reservedBits
deriving DecidableEq, Repr

/-- `ERRCODE`: 1 InvalidGeometry, 2 UnsupportedParameter, 3 IllegalCommand (R211). -/
def Cause.code : Cause → Nibble
  | .zeroArea => 1
  | .capacity => 1
  | .notByteAligned => 1
  | .targetMismatch => 1
  | .algRange => 2
  | .matrixSize => 2
  | .reservedOp => 3
  | .reservedBits => 3

/-- `ERRSUB` (R211). -/
def Cause.sub : Cause → Nibble
  | .zeroArea => 1
  | .capacity => 2
  | .notByteAligned => 3
  | .targetMismatch => 4
  | .algRange => 1
  | .matrixSize => 2
  | .reservedOp => 1
  | .reservedBits => 2

/-- The word a host reads from `REG.STATUS`: bits 31:12 zero, `ERRSUB`, `ERRCODE`, `UNSUP`, `ERR`, `DONE`, `BUSY` (R22). -/
def Status.toWord (st : Status) : Word :=
  0#20 ++ st.errSub ++ st.errCode ++ BitVec.ofBool st.unsup ++ BitVec.ofBool st.err ++ BitVec.ofBool st.done ++
    BitVec.ofBool st.busy

/-- Acceptance (R38): `BUSY <- 1`, `DONE <- 0`, `ERR <- 0`, the codes 0, and `UNSUP <-` (a fallback was taken). -/
def Status.accepted (unsup : Bool) : Status :=
  { busy := true, done := false, err := false, unsup := unsup, errCode := 0, errSub := 0 }

/-- Completion (R38): `BUSY <- 0`, `DONE <- 1`; `UNSUP` and the rest are kept. -/
def Status.completed (st : Status) : Status :=
  { st with busy := false, done := true }

/-- Rejection (R38, R217): `BUSY <- 0`, `DONE <- 0`, `ERR <- 1`, `UNSUP <- 0` and the two codes. -/
def Status.rejected (e : Cause) : Status :=
  { busy := false, done := false, err := true, unsup := false, errCode := e.code, errSub := e.sub }

end Sys2Proof.Machine
end

