-- ==== Sys2Proof/Machine/Ops.lean ====
section
/-! DEFINITION. The named operations over memory and registers (20_memory.md), and taking a rejection, the block's one
exception, as one shared operation (R217). -/

namespace Sys2Proof.Machine

/-! ### One buffer

The representation is canonical: indices strictly rising. An unlisted index holds no written byte; what it reads as is said
once, in `State.readByte`. -/

/-- The rest of the list from the first cell at or above `a`. -/
def Memory.seek (m : Memory) (a : Nat) : Memory := m.dropWhile fun cell => decide (cell.1 < a)

/-- The byte of the first cell, if that cell is `a`. -/
def Memory.headAt (m : Memory) (a : Nat) : Option Byte :=
  match m with
  | [] => none
  | cell :: _ => if cell.1 = a then some cell.2 else none

/-- The byte written at index `a` since reset, if any. -/
def Memory.lookup (m : Memory) (a : Nat) : Option Byte := (m.seek a).headAt a

/-- The bytes at `a`, `a + 1`, …, `a + n - 1` in one pass over the list; an unwritten index `i` reads as `unwritten i`. -/
def Memory.readRange (unwritten : Nat → Byte) (m : Memory) (a : Nat) : Nat → List Byte
  | 0 => []
  | n + 1 => ((m.seek a).headAt a).getD (unwritten a) :: Memory.readRange unwritten (m.seek a) (a + 1) n

/-- The cells of the bytes `vs` stored from index `a` upward. -/
def Memory.cells (a : Nat) : List Byte → Memory
  | [] => []
  | v :: vs => (a, v) :: Memory.cells (a + 1) vs

/-- Store the bytes `vs` at `a`, `a + 1`, …: `MemWrite` for each of them, in one pass. -/
def Memory.writeRange (m : Memory) (a : Nat) (vs : List Byte) : Memory :=
  m.takeWhile (fun cell => decide (cell.1 < a)) ++ Memory.cells a vs ++ m.seek (a + vs.length)

/-- The canonical form: indices strictly rising, all at or above `lo`. -/
def Memory.wfFrom (lo : Nat) : Memory → Bool
  | [] => true
  | cell :: m => decide (lo ≤ cell.1) && Memory.wfFrom (cell.1 + 1) m

/-- The canonical form of a buffer. -/
def Memory.wf (m : Memory) : Bool := Memory.wfFrom 0 m

/-- Every listed index lies below `cap`. -/
def Memory.below (cap : Nat) (m : Memory) : Bool := m.all fun cell => decide (cell.1 < cap)

/-! ### The spaces -/

/-- The buffer of a space (R50: no access to one space reaches another). -/
def State.buffer (s : State) : Space → Memory
  | .pix => s.pix
  | .mono => s.mono
  | .payload => s.payload
  | .frame => s.frame

/-- The state with the buffer of one space replaced. -/
def State.setBuffer (s : State) (sp : Space) (m : Memory) : State :=
  match sp with
  | .pix => { s with pix := m }
  | .mono => { s with mono := m }
  | .payload => { s with payload := m }
  | .frame => { s with frame := m }

/-- `FRAME_LEN = 2892` (R6, 90_conflicts.md C2). -/
def frameLen : Nat := 2892

/-- The number of bytes of a space (R50). -/
def capacity (c : Config) : Space → Nat
  | .pix => 4 * c.maxPix
  | .mono => c.maxPix
  | .payload => c.payCap
  | .frame => frameLen

/-- `MemRead(space, a)`: the byte last written there, or the draw of this reset if nothing has written it (R36, R66, U1). -/
def State.readByte (s : State) (sp : Space) (a : Nat) : Byte :=
  ((s.buffer sp).lookup a).getD (Config.resetByte s.epoch sp a)

/-- `MemRead` of `n` consecutive bytes from index `a`. -/
def State.readBytes (s : State) (sp : Space) (a n : Nat) : List Byte :=
  (s.buffer sp).readRange (Config.resetByte s.epoch sp) a n

/-- `MemWrite` of the bytes `vs` from index `a` upward. -/
def State.writeBytes (s : State) (sp : Space) (a : Nat) (vs : List Byte) : State :=
  s.setBuffer sp ((s.buffer sp).writeRange a vs)

/-! ### The registers (R20) -/

/-- `REG[index]` as a host read returns it: `CMD`, `STATUS`, `WIDTH`, `HEIGHT`, `PLEN`, `FLEN`, and 0 from index 6 upward (R20 to
R26). -/
def State.readReg (s : State) (index : Nat) : Word :=
  match index with
  | 0 => s.cmd
  | 1 => s.status.toWord
  | 2 => s.width.setWidth 32
  | 3 => s.height.setWidth 32
  | 4 => s.plen
  | 5 => s.flen
  | _ => 0

/-- `W = REG.WIDTH[15:0]` as a number (R82). -/
def State.imageW (s : State) : Nat := s.width.toNat

/-- `H = REG.HEIGHT[15:0]` as a number (R82). -/
def State.imageH (s : State) : Nat := s.height.toNat

/-! ### Rejection: the block's exception (R217)

There is nothing to return to: no handler, vector, mode or saved state (R217), and no return (R219). `ERR` and the codes stay
until the next command that is not ignored replaces them. -/

/-- Taking a rejection: `CMD <-` the written word, `STATUS <-` `ERR` and the two codes; nothing else changes (R217). -/
def reject (word : Word) (e : Cause) (s : State) : State :=
  { s with cmd := word, status := Status.rejected e }

end Sys2Proof.Machine
end

