-- ==== Sys2Proof/Machine/Operands.lean ====
section
/-! DEFINITION. From the fields of a command to its effective parameters: the algorithm table (R84), the matrix sizes, and the
fallbacks for unsupported values (R88). -/

namespace Sys2Proof.Machine

/-- The edge length of a matrix. -/
def MatrixSize.toNat : MatrixSize → Nat
  | .n2 => 2
  | .n4 => 4
  | .n8 => 8

/-- The matrix size `N_raw` names, if it is one of {2, 4, 8} (R88). -/
def matrixSizeOf (msize : Byte) : Option MatrixSize :=
  if msize = 2#8 then some .n2
  else if msize = 4#8 then some .n4
  else if msize = 8#8 then some .n8
  else none

/-- The algorithm of an index 0 to 8, with the matrix size an ordered dithering takes (R84). -/
def algorithmOf (alg : Nibble) (n : MatrixSize) : Option Algorithm :=
  if alg = 0#4 then some .flat
  else if alg = 1#4 then some (.diffusion .fs)
  else if alg = 2#4 then some (.ordered n)
  else if alg = 3#4 then some (.diffusion .atk)
  else if alg = 4#4 then some (.diffusion .jar)
  else if alg = 5#4 then some (.diffusion .stu)
  else if alg = 6#4 then some (.diffusion .bur)
  else if alg = 7#4 then some (.diffusion .sie)
  else if alg = 8#4 then some (.diffusion .sil)
  else none

/-- `N = N_raw` if it is supported, else 4 (R88). -/
def effectiveSize (msize : Byte) : MatrixSize := (matrixSizeOf msize).getD .n4

/-- `alg = alg_raw` if it is at most 8, else 0 (R88). -/
def effectiveAlgorithm (alg : Nibble) (msize : Byte) : Algorithm :=
  (algorithmOf alg (effectiveSize msize)).getD .flat

/-- `alg_raw > 8`: unsupported (R88, R214). -/
def algUnsupported (alg : Nibble) : Bool := (algorithmOf alg .n4).isNone

/-- The effective algorithm is 2 and `N_raw` is not in {2, 4, 8}: unsupported (R88, R214). -/
def sizeUnsupported (alg : Nibble) (msize : Byte) : Bool := alg == 2#4 && (matrixSizeOf msize).isNone

/-- Either fallback is taken (R88). -/
def fallbackTaken (alg : Nibble) (msize : Byte) : Bool := algUnsupported alg || sizeUnsupported alg msize

/-- What a command asks for: its operation with the fields that operation reads (R81, R86). `CLR` is not among them: it is
immediate and checks nothing (R216 line 3). -/
inductive Request where
  | quant (alg : Nibble) (thresh msize : Byte) (inv : Bool)
  | pack
  | frame
  | encode
  | convert (alg : Nibble) (thresh msize : Byte) (inv : Bool)
deriving DecidableEq, Repr

/-- The effective parameters of a quantiser (R88). -/
def effectiveParams (alg : Nibble) (thresh msize : Byte) (inv : Bool) : QuantParams :=
  { algorithm := effectiveAlgorithm alg msize, thresh := thresh, inv := inv }

/-- What the latch holds for an accepted request: effective parameters, and `W` and `H` as read at issue (R32). -/
def Request.job (w h : Nat) : Request → Job
  | .quant alg t m inv => .quant w h (effectiveParams alg t m inv)
  | .pack => .pack w h
  | .frame => .frame
  | .encode => .encode w h
  | .convert alg t m inv => .convert w h (effectiveParams alg t m inv)

/-- `UNSUP` of an accepted request: only `QUANT` and `CONVERT` have parameters to replace (R86, R88). DEDUCED (entry 15): a
`CONVERT` keeps it to its completion. -/
def Request.unsup : Request → Bool
  | .quant alg _ m _ => fallbackTaken alg m
  | .pack => false
  | .frame => false
  | .encode => false
  | .convert alg _ m _ => fallbackTaken alg m

/-- `OP in {QUANT, CONVERT} and alg_raw > 8` (R216 line 4). -/
def Request.algOutOfRange : Request → Bool
  | .quant alg _ _ _ => algUnsupported alg
  | .pack => false
  | .frame => false
  | .encode => false
  | .convert alg _ _ _ => algUnsupported alg

/-- `OP in {QUANT, CONVERT} and alg_raw = 2 and N_raw not in {2,4,8}` (R216 line 5). -/
def Request.sizeOutOfRange : Request → Bool
  | .quant alg _ m _ => sizeUnsupported alg m
  | .pack => false
  | .frame => false
  | .encode => false
  | .convert alg _ m _ => sizeUnsupported alg m

/-- `OP = FRAME` (R216 line 6). -/
def Request.isFrame : Request → Bool
  | .quant _ _ _ _ => false
  | .pack => false
  | .frame => true
  | .encode => false
  | .convert _ _ _ _ => false

/-- `OP in {ENCODE, CONVERT}` (R216 lines 9 and 10). -/
def Request.encodes : Request → Bool
  | .quant _ _ _ _ => false
  | .pack => false
  | .frame => false
  | .encode => true
  | .convert _ _ _ _ => true

end Sys2Proof.Machine
end

