-- ==== Sys2Proof/Machine/Defaults.lean ====
section
/-! DEFINITION. The kernels (R145 to R151) and the default configuration (R7), at which `exec` and `step` run (entry 3). -/

namespace Sys2Proof.Machine

/-- Floyd-Steinberg (R145). -/
def kernelFs : Kernel := ⟨16, [⟨1, 0, 7⟩, ⟨-1, 1, 3⟩, ⟨0, 1, 5⟩, ⟨1, 1, 1⟩]⟩

/-- Atkinson (R146). -/
def kernelAtk : Kernel := ⟨8, [⟨1, 0, 1⟩, ⟨2, 0, 1⟩, ⟨-1, 1, 1⟩, ⟨0, 1, 1⟩, ⟨1, 1, 1⟩, ⟨0, 2, 1⟩]⟩

/-- Sierra-Lite (R151). -/
def kernelSil : Kernel := ⟨4, [⟨1, 0, 2⟩, ⟨-1, 1, 1⟩, ⟨0, 1, 1⟩]⟩

/-- PRESUMED (entry 4). Default of `KERNEL[JAR]`, the weights published by Jarvis, Judice and Ninke (R147, K1). Unsafe. -/
def kernelJar : Kernel :=
  ⟨48, [⟨1, 0, 7⟩, ⟨2, 0, 5⟩, ⟨-2, 1, 3⟩, ⟨-1, 1, 5⟩, ⟨0, 1, 7⟩, ⟨1, 1, 5⟩, ⟨2, 1, 3⟩,
    ⟨-2, 2, 1⟩, ⟨-1, 2, 3⟩, ⟨0, 2, 5⟩, ⟨1, 2, 3⟩, ⟨2, 2, 1⟩]⟩

/-- PRESUMED (entry 4). Default of `KERNEL[STU]`, the weights published by Stucki (R148, K2). Unsafe. -/
def kernelStu : Kernel :=
  ⟨42, [⟨1, 0, 8⟩, ⟨2, 0, 4⟩, ⟨-2, 1, 2⟩, ⟨-1, 1, 4⟩, ⟨0, 1, 8⟩, ⟨1, 1, 4⟩, ⟨2, 1, 2⟩,
    ⟨-2, 2, 1⟩, ⟨-1, 2, 2⟩, ⟨0, 2, 4⟩, ⟨1, 2, 2⟩, ⟨2, 2, 1⟩]⟩

/-- PRESUMED (entry 4). Default of `KERNEL[BUR]`, the weights published by Burkes (R149, K3). Unsafe. -/
def kernelBur : Kernel :=
  ⟨32, [⟨1, 0, 8⟩, ⟨2, 0, 4⟩, ⟨-2, 1, 2⟩, ⟨-1, 1, 4⟩, ⟨0, 1, 8⟩, ⟨1, 1, 4⟩, ⟨2, 1, 2⟩]⟩

/-- PRESUMED (entry 4). Default of `KERNEL[SIE]`, the three-row weights published by Sierra (R150, K4). Unsafe. -/
def kernelSie : Kernel :=
  ⟨32, [⟨1, 0, 5⟩, ⟨2, 0, 3⟩, ⟨-2, 1, 2⟩, ⟨-1, 1, 4⟩, ⟨0, 1, 5⟩, ⟨1, 1, 4⟩, ⟨2, 1, 2⟩,
    ⟨-1, 2, 2⟩, ⟨0, 2, 3⟩, ⟨1, 2, 2⟩]⟩

/-- DESIGN CHOICE (entry 3). The value R7 gives each open parameter; `exec` and `step` are `execIn` and `stepIn` at these.
Unsafe for an implementation with other values. -/
def defaultConfig : Config :=
  { maxPix := 23040
    maxPix_ge := Nat.le_refl _
    strictParams := false
    edCmp := .ge
    share := fun e n d => e * n / d
    bayerValue := fun n m => m * 255 / (n * n)
    half := fun t => t / 2
    jar := kernelJar
    stu := kernelStu
    bur := kernelBur
    sie := kernelSie }

/-- The kernel of a name: three are fixed by the spec, four are fields of the configuration (R7, R34). -/
def kernelOf (c : Config) : KernelName → Kernel
  | .fs => kernelFs
  | .atk => kernelAtk
  | .jar => c.jar
  | .stu => c.stu
  | .bur => c.bur
  | .sie => c.sie
  | .sil => kernelSil

end Sys2Proof.Machine
end

