-- ==== Sys2Proof/Machine/Colorimetry.lean ====
section
/-! DEFINITION. The luminance front end (R110), what every quantiser shares (R114), and the flat threshold (R113). -/

namespace Sys2Proof.Machine

/-- `299 * R + 587 * G + 114 * B` (R110). -/
def luma (r g b : Byte) : Nat := 299 * r.toNat + 587 * g.toNat + 114 * b.toNat

/-- `L1000(p)`: a thousand times the luminance of the pixel of row-major index `p`; the A byte is not read (R53, R110). -/
def State.luma1000 (s : State) (p : Nat) : Nat :=
  luma (s.readByte .pix (4 * p)) (s.readByte .pix (4 * p + 1)) (s.readByte .pix (4 * p + 2))

/-- `L1000` of every RGBA quad of a byte list, in order (R53, R90, R110). -/
def lumaOfQuads : List Byte → List Nat
  | r :: g :: b :: _ :: rest => luma r g b :: lumaOfQuads rest
  | _ => []

/-- `L1000(0), …, L1000(n - 1)` of the raster in `PIX`: computed once per pixel before quantisation (R110). -/
def State.lumas (s : State) (n : Nat) : List Nat := lumaOfQuads (s.readBytes .pix 0 (4 * n))

/-- `L(p)`, an exact rational (R10, R110). -/
def lumaRat (l1000 : Nat) : Rat := l1000 / 1000

/-- `out(p)`: the decision `d` exclusive-or `inv`, white 0xFF and black 0x00 (R91, R114). -/
def outByte (inv d : Bool) : Byte := if xor d inv then 0xFF#8 else 0x00#8

/-- `d(p)` of the flat threshold: `L1000(p) > 102000`, strict (R113). -/
def flatDecision (l1000 : Nat) : Bool := decide (102000 < l1000)

/-- The flat threshold over a raster; pixels are independent (R113). -/
def flatDecisions (ls : List Nat) : List Bool := ls.map flatDecision

end Sys2Proof.Machine
end

