-- ==== Sys2Proof/Machine/Bayer.lean ====
section
/-! DEFINITION. Unit BD: the Bayer matrix (R120, R121) and ordered dithering (R124, R125). -/

namespace Sys2Proof.Machine

/-- The base pattern `B2`, row first (R120). -/
def bayerBase (r c : Nat) : Nat := (([[0, 2], [3, 1]] : List (List Nat)).getD r []).getD c 0

/-- The matrix of size `2 ^ (l + 1)`: `l = 0` is `B2`, and each quadrant of the next is four times the matrix before plus the
base entry of the quadrant (R121, 90_conflicts.md C9). -/
def bayerLevel : Nat → Nat → Nat → Nat
  | 0, r, c => bayerBase r c
  | l + 1, r, c =>
    4 * bayerLevel l (r % 2 ^ (l + 1)) (c % 2 ^ (l + 1)) + bayerBase (r / 2 ^ (l + 1)) (c / 2 ^ (l + 1))

/-- `bayer(N, r, c)` for `N` in {2, 4, 8} (R121). -/
def bayer : MatrixSize → Nat → Nat → Nat
  | .n2 => bayerLevel 0
  | .n4 => bayerLevel 1
  | .n8 => bayerLevel 2

/-- `bv` of the pixel at `(x, y)`: the row index comes from `y`, the column index from `x` (R124). -/
def bayerOffset (c : Config) (n : MatrixSize) (x y : Nat) : Rat :=
  c.bayerValue n.toNat (bayer n (y % n.toNat) (x % n.toNat))

/-- `d(p)` of ordered dithering: `L(p) + bv - NUM.half(T) >= T` (R125). -/
def bayerDecision (c : Config) (n : MatrixSize) (t : Byte) (x y l1000 : Nat) : Bool :=
  decide ((t.toNat : Rat) ≤ lumaRat l1000 + bayerOffset c n x y - c.half t.toNat)

/-- Ordered dithering of the pixels `p`, `p + 1`, … of a raster of width `w` (R125). -/
def bayerDecisions (c : Config) (n : MatrixSize) (w : Nat) (t : Byte) : Nat → List Nat → List Bool
  | _, [] => []
  | p, l :: ls => bayerDecision c n t (p % w) (p / w) l :: bayerDecisions c n w t (p + 1) ls

end Sys2Proof.Machine
end

