-- ==== Sys2Proof/Machine/Diffusion.lean ====
section
/-! DEFINITION. Unit EDQ: the common error-diffusion algorithm (R140 to R144) over the working buffer `WORK` (R33). -/

namespace Sys2Proof.Machine

/-- `decide(w, T)` (R141). -/
def edDecide (cmp : EdCmp) (v : Rat) (t : Nat) : Bool :=
  match cmp with
  | .ge => decide ((t : Rat) ≤ v)
  | .gt => decide ((t : Rat) < v)

/-- `e = w - o`, with `o` 255 for a white decision and 0 for a black one; from the un-inverted decision (R142, R144). -/
def edError (v : Rat) (d : Bool) : Rat := v - (if d then 255 else 0)

/-- The index of the neighbour a tap points to from pixel `(x, y)`, if that pixel exists (R143). -/
def tapTarget (w h x y : Nat) (t : Tap) : Option Nat :=
  if 0 ≤ (x : Int) + t.dx ∧ (x : Int) + t.dx < w ∧ y + t.dy < h then
    some ((y + t.dy) * w + ((x : Int) + t.dx).toNat)
  else none

/-- Add one tap's share of the error to its neighbour; a tap that leaves the raster does nothing (R143). -/
def edApplyTap (c : Config) (k : Kernel) (w h x y : Nat) (e : Rat) (work : List Rat) (t : Tap) : List Rat :=
  match tapTarget w h x y t with
  | some q => work.modify q (· + c.share e t.num k.den)
  | none => work

/-- Add the shares of all taps, in the listed order (R140, R143). -/
def edSpread (c : Config) (k : Kernel) (w h x y : Nat) (e : Rat) (work : List Rat) : List Rat :=
  k.taps.foldl (edApplyTap c k w h x y e) work

/-- The decision of pixel `p`, read off the working buffer as the scan reaches it (R140, R141). -/
def edPixelDecision (c : Config) (t p : Nat) (work : List Rat) : Bool := edDecide c.edCmp (work.getD p 0) t

/-- The working buffer after the scan has processed pixel `p` (the body of the loop of R140). -/
def edPixel (c : Config) (k : Kernel) (w h t p : Nat) (work : List Rat) : List Rat :=
  edSpread c k w h (p % w) (p / w) (edError (work.getD p 0) (edPixelDecision c t p work)) work

/-- The decisions of the `n` pixels from `p` on, in row-major order (R140, R152). -/
def edScan (c : Config) (k : Kernel) (w h t : Nat) : Nat → Nat → List Rat → List Bool
  | 0, _, _ => []
  | n + 1, p, work =>
    edPixelDecision c t p work :: edScan c k w h t n (p + 1) (edPixel c k w h t p work)

/-- `WORK` as it is created: the luminance of every pixel (R140, R256). -/
def edInit (ls : List Nat) : List Rat := ls.map lumaRat

/-- Error diffusion of a whole raster (R140). -/
def edDecisions (c : Config) (k : Kernel) (w h : Nat) (t : Byte) (ls : List Nat) : List Bool :=
  edScan c k w h t.toNat (w * h) 0 (edInit ls)

end Sys2Proof.Machine
end

