-- ==== Sys2Proof/Machine/Packer.lean ====
section
/-! DEFINITION. Unit RBP: mirroring (R171), column-major visiting order (R172), the pixel's bit (R173), MSB-first packing (R174)
and zero padding (R175). -/

namespace Sys2Proof.Machine

/-- `mono_bit(v)`: 1 when the byte is above 128 (R91, R173). -/
def monoBit (v : Byte) : Bool := decide (128 < v.toNat)

/-- The first `h` rows of width `w` of a row-major raster (R54). -/
def rasterRows (w : Nat) : Nat → List Byte → List (List Byte)
  | 0, _ => []
  | h + 1, bs => bs.take w :: rasterRows w h (bs.drop w)

/-- Flip every row about the vertical axis; rows are not exchanged (R171). -/
def mirrorRows (rows : List (List Byte)) : List (List Byte) := rows.map List.reverse

/-- Visit `w` columns left to right, each top to bottom (R172). -/
def columnMajor : Nat → List (List Byte) → List Byte
  | 0, _ => []
  | w + 1, rows => rows.map (·.headD 0) ++ columnMajor w (rows.map List.tail)

/-- The bits of a raster in the packer's visiting order (R171 to R173). -/
def visitedBits (w h : Nat) (mono : List Byte) : List Bool :=
  (columnMajor w (mirrorRows (rasterRows w h mono))).map monoBit

/-- One byte from up to eight bits, the first in bit 7, missing ones 0 (R174, R175). -/
def byteOfBits (bs : List Bool) : Byte :=
  BitVec.ofBoolListBE [bs.getD 0 false, bs.getD 1 false, bs.getD 2 false, bs.getD 3 false,
    bs.getD 4 false, bs.getD 5 false, bs.getD 6 false, bs.getD 7 false]

/-- The first `n` bytes of a bit sequence, eight bits each (R174). -/
def packBytes : Nat → List Bool → List Byte
  | 0, _ => []
  | n + 1, bs => byteOfBits (bs.take 8) :: packBytes n (bs.drop 8)

/-- `ceil(W * H / 8)` (R25, R175). -/
def packedLen (n : Nat) : Nat := (n + 7) / 8

/-- What `PACK` writes to `PAYLOAD` for the raster `mono` of `w` by `h` pixels (R170). -/
def packedBytes (w h : Nat) (mono : List Byte) : List Byte := packBytes (packedLen (w * h)) (visitedBits w h mono)

end Sys2Proof.Machine
end

