-- ==== Sys2Proof/Machine/Framer.lean ====
section
/-! DEFINITION. Unit PF: the constants of the frame (R186, R187, R92, R93) and its assembly (R185). -/

namespace Sys2Proof.Machine

/-- The ten header bytes; bytes 4 and 5 are the constant size field 0x0B44 (R93, R186, 90_conflicts.md C1). -/
def frameHeader : List Byte := [0xDD, 0x00, 0x01, 0x02, 0x0B, 0x44, 0x00, 0x0C, 0x01, 0x00]

/-- The two trailer bytes (R187). -/
def frameTrailer : List Byte := [0x00, 0xDD]

/-- `PAYLOAD_LEN = 2880` (R6). -/
def payloadLen : Nat := 2880

/-- `TARGET_W = 240` (R6). -/
def targetW : Nat := 240

/-- `TARGET_H = 96` (R6). -/
def targetH : Nat := 96

/-- `header ++ payload ++ trailer` (R56, R185). -/
def frameBytes (payload : List Byte) : List Byte := frameHeader ++ payload ++ frameTrailer

end Sys2Proof.Machine
end

