-- ==== Sys2Proof/Machine/Issue.lean ====
section
/-! DEFINITION. What a command does in the step of the `REG.CMD` write: the one order of checks (R216), rejection (R217),
acceptance (R38, R32, R33), the immediate `CLR` (R190), and being ignored (R223). -/

namespace Sys2Proof.Machine

/-- The cause of the first check that fails (R216: "the first that fails decides the codes and no later check is made"). -/
def firstFailing : List (Bool × Cause) → Option Cause
  | [] => none
  | check :: rest => if check.1 then some check.2 else firstFailing rest

/-- Lines 4 to 10 of R216, in order. Lines 1 and 2 are `decode`'s (R87), line 3 is `execClr`. -/
def checks (c : Config) (r : Request) (s : State) : List (Bool × Cause) :=
  [ (c.strictParams && r.algOutOfRange, .algRange),
    (c.strictParams && r.sizeOutOfRange, .matrixSize),
    (r.isFrame && s.plen != BitVec.ofNat 32 payloadLen, .targetMismatch),
    (!r.isFrame && (s.imageW == 0 || s.imageH == 0), .zeroArea),
    (!r.isFrame && decide (c.maxPix < s.imageW * s.imageH), .capacity),
    (r.encodes && s.imageW * s.imageH % 8 != 0, .notByteAligned),
    (r.encodes && (s.imageW != targetW || s.imageH != targetH), .targetMismatch) ]

/-- Why a request is rejected, or `none` if it is accepted (R216 line 11). -/
def rejection (c : Config) (r : Request) (s : State) : Option Cause := firstFailing (checks c r s)

/-- The first phase of an accepted command (R31). -/
def Job.firstPhase : Job → Phase
  | .quant _ _ _ => .quantise
  | .pack _ _ => .packing
  | .frame => .framing
  | .encode _ _ => .packing
  | .convert _ _ _ => .quantise

/-- The raster size and the quantiser's parameters of a job that quantises. -/
def Job.quantPart : Job → Option (Nat × Nat × QuantParams)
  | .quant w h p => some (w, h, p)
  | .pack _ _ => none
  | .frame => none
  | .encode _ _ => none
  | .convert w h p => some (w, h, p)

/-- The raster size, threshold and kernel name of an error-diffusion job; other jobs have no `WORK` (R33). -/
def Job.diffusionPart (j : Job) : Option (Nat × Nat × Nat × KernelName) :=
  match j.quantPart with
  | some (w, h, p) =>
    match p.algorithm with
    | .flat => none
    | .ordered _ => none
    | .diffusion k => some (w, h, p.thresh.toNat, k)
  | none => none

/-- `WORK` when a command starts: created from luminance for an error-diffusion job, absent otherwise (R33, R256). -/
def initialWork (j : Job) (s : State) : List Rat :=
  match j.diffusionPart with
  | some (w, h, _, _) => edInit (s.lumas (w * h))
  | none => []

/-- Acceptance: `CMD` stores the word (R21), `STATUS` as R38 says, the latch is taken (R32), the scan stands at the first
index of its first phase (R31), and `WORK` is created (R33). -/
def accept (word : Word) (r : Request) (s : State) : State :=
  { s with
    cmd := word
    status := Status.accepted r.unsup
    latch := some (r.job s.imageW s.imageH)
    seq := { phase := (r.job s.imageW s.imageH).firstPhase, k := 0 }
    work := initialWork (r.job s.imageW s.imageH) s }

/-- Issue of a request: ignored while busy (R223), else rejected or accepted (R9, R216). -/
def issue (c : Config) (word : Word) (r : Request) (s : State) : State :=
  if s.status.busy then s
  else
    match rejection c r s with
    | some e => reject word e s
    | none => accept word r s

/-- `CLR`: ignored while busy; else immediately all six registers 0, the buffers kept (R190, R37). `CMD` becomes 0, not the
written word. -/
def clear (s : State) : State :=
  if s.status.busy then s
  else { s with cmd := 0, status := .zero, width := 0, height := 0, plen := 0, flen := 0 }

/-- The cause that rejects a word which selects no command (R85, R89, R215). -/
def causeOfError : DecodeError → Cause
  | .reservedBits => .reservedBits
  | .reservedOp => .reservedOp

/-- A word that selects no command: ignored while busy, else rejected (R215, R216 lines 1 and 2). -/
def issueIllegal (word : Word) (e : DecodeError) (s : State) : State :=
  if s.status.busy then s else reject word (causeOfError e) s

end Sys2Proof.Machine
end

