-- ==== Sys2Proof/Machine/Completion.lean ====
section
/-! DEFINITION. What the running block does: the stages of a command, the atomic completion step (R62), and the hidden advance
of the scan (R31, R33). -/

namespace Sys2Proof.Machine

/-! ### The stages (R191: each reads what the one before wrote) -/

/-- The decisions `d(0), …, d(W * H - 1)` of the effective algorithm (R112). -/
def quantDecisions (c : Config) (w h : Nat) (p : QuantParams) (ls : List Nat) : List Bool :=
  match p.algorithm with
  | .flat => flatDecisions ls
  | .ordered n => bayerDecisions c n w p.thresh 0 ls
  | .diffusion k => edDecisions c (kernelOf c k) w h p.thresh ls

/-- The results of `QUANT`: `MONO[0 .. W*H-1]` and nothing else (R112, R114). -/
def quantStage (c : Config) (w h : Nat) (p : QuantParams) (s : State) : State :=
  s.writeBytes .mono 0 ((quantDecisions c w h p (s.lumas (w * h))).map (outByte p.inv))

/-- The results of `PACK`: `PAYLOAD[0 .. plen-1]`, `PLEN`, and nothing else (R170). DEDUCED (entry 16): the count fits `PLEN`. -/
def packStage (w h : Nat) (s : State) : State :=
  { s.writeBytes .payload 0 (packedBytes w h (s.readBytes .mono 0 (w * h))) with
    plen := BitVec.ofNat 32 (packedLen (w * h)) }

/-- The results of `FRAME`: all 2892 bytes of `FRAME`, `FLEN`, and nothing else (R185). -/
def frameStage (s : State) : State :=
  { s.writeBytes .frame 0 (frameBytes (s.readBytes .payload 0 payloadLen)) with
    flen := BitVec.ofNat 32 frameLen }

/-- The results of a job (R112, R170, R185, R188, R189). -/
def results (c : Config) (s : State) : Job → State
  | .quant w h p => quantStage c w h p s
  | .pack w h => packStage w h s
  | .frame => frameStage s
  | .encode w h => frameStage (packStage w h s)
  | .convert w h p => frameStage (packStage w h (quantStage c w h p s))

/-- What the latched job makes of the state; with no job latched there is no result (DESIGN CHOICE, entry 18). -/
def latchedResults (c : Config) (s : State) : State :=
  match s.latch with
  | some j => results c s j
  | none => s

/-- The completion step: all results, computed from the latch and the buffers, in one step with `BUSY <- 0`, `DONE <- 1` (R32,
R62); the latch and `WORK` are gone (R32, R33). DESIGN CHOICE (entry 11): it does not read the hidden scan. DESIGN CHOICE (entry 8): the
scan index becomes (IDLE, 0); R31 gives `k` no meaning in IDLE, and R36 states it at reset only. -/
def complete (c : Config) (s : State) : State :=
  { latchedResults c s with
    status := s.status.completed
    latch := none
    seq := .idle
    work := [] }

/-- The block left to itself until it is idle: a busy block completes (R261), an idle one keeps all its state (R224; DEDUCED,
entry 12). -/
def finish (c : Config) (s : State) : State :=
  if s.status.busy then complete c s else s

/-! ### The hidden advance of the scan (R31) -/

/-- The pixels a job's raster has; `FRAME` reads no raster. -/
def Job.pixels : Job → Nat
  | .quant w h _ => w * h
  | .pack w h => w * h
  | .frame => 0
  | .encode w h => w * h
  | .convert w h _ => w * h

/-- The number of indices the scan visits in a phase of a job: `W * H` pixels, or 2892 frame bytes (R31). -/
def Job.phaseLen (j : Job) : Phase → Nat
  | .idle => 0
  | .quantise => j.pixels
  | .packing => j.pixels
  | .framing => frameLen

/-- The phase after a phase of a job, in the fixed order QUANTISE, PACKING, FRAMING; none after the last (R31, R191). -/
def Job.nextPhase (j : Job) (ph : Phase) : Option Phase :=
  match j, ph with
  | .quant _ _ _, _ => none
  | .pack _ _, _ => none
  | .frame, _ => none
  | .encode _ _, .packing => some .framing
  | .encode _ _, _ => none
  | .convert _ _ _, .quantise => some .packing
  | .convert _ _ _, .packing => some .framing
  | .convert _ _ _, _ => none

/-- The scan index after the present one; none when the present one is the last of the command (R31). -/
def Seq.next (j : Job) (q : Seq) : Option Seq :=
  if q.k + 1 < j.phaseLen q.phase then some { q with k := q.k + 1 }
  else (j.nextPhase q.phase).map fun ph => { phase := ph, k := 0 }

/-- `WORK` after the scan has processed its present index: one pixel of the error-diffusion loop while in QUANTISE (R140). -/
def workAfter (c : Config) (j : Job) (q : Seq) (work : List Rat) : List Rat :=
  match q.phase, j.diffusionPart with
  | .quantise, some (w, h, t, k) => edPixel c (kernelOf c k) w h t q.k work
  | _, _ => work

/-- One position of the scan: process the present index and go to the next, or complete after the last. -/
def scanOne (c : Config) (s : State) : State :=
  if s.status.busy then
    match s.latch with
    | some j =>
      match s.seq.next j with
      | some q => { s with seq := q, work := workAfter c j s.seq s.work }
      | none => complete c s
    | none => complete c s
  else s

/-- `n` positions of the scan. -/
def scanMany (c : Config) : Nat → State → State
  | 0, s => s
  | n + 1, s => scanMany c n (scanOne c s)

end Sys2Proof.Machine
end

