-- ==== Sys2Proof/Machine/Encoder.lean ====
section
/-! DEFINITION. The meanings of `PACK` (R170), `FRAME` (R185), `ENCODE` (R188) and `CONVERT` (R189). The fields an operation does
not read have no effect but to be stored in `CMD` (R21, R86). The last argument of a meaning is the configuration it runs under (R7,
R35); left out, it is the default one (entry 3). -/

namespace Sys2Proof.Machine

/-- `PACK` (R170). -/
def execPack (alg : Nibble) (thresh msize : Byte) (inv : Bool) (s : State)
    (c : Config := defaultConfig) : Host.Outcome State Fault Refusal :=
  .next (issue c (commandWord 0x2 alg thresh msize inv) .pack s)

/-- `FRAME` (R185). -/
def execFrame (alg : Nibble) (thresh msize : Byte) (inv : Bool) (s : State)
    (c : Config := defaultConfig) : Host.Outcome State Fault Refusal :=
  .next (issue c (commandWord 0x3 alg thresh msize inv) .frame s)

/-- `ENCODE` (R188). -/
def execEncode (alg : Nibble) (thresh msize : Byte) (inv : Bool) (s : State)
    (c : Config := defaultConfig) : Host.Outcome State Fault Refusal :=
  .next (issue c (commandWord 0x4 alg thresh msize inv) .encode s)

/-- `CONVERT` (R189): the operands of `QUANT` with the same fallbacks (R88). -/
def execConvert (alg : Nibble) (thresh msize : Byte) (inv : Bool) (s : State)
    (c : Config := defaultConfig) : Host.Outcome State Fault Refusal :=
  .next (issue c (commandWord 0x5 alg thresh msize inv) (.convert alg thresh msize inv) s)

end Sys2Proof.Machine
end

