-- ==== Sys2Proof/Machine/Quantise.lean ====
section
/-! DEFINITION. The meanings of the twelve `QUANT` rows (R112): each is `QUANT` with its own `ALG` value. The last argument of a
meaning is the configuration it runs under (R7, R35); left out, it is the default one (entry 3). -/

namespace Sys2Proof.Machine

/-- `QUANT(alg, T, N, inv)` issued under a configuration (R80, R112, R216). -/
def quantCommand (c : Config) (alg : Nibble) (thresh msize : Byte) (inv : Bool) (s : State) : State :=
  issue c (commandWord 0x1 alg thresh msize inv) (.quant alg thresh msize inv) s

/-- `Q.FLAT` (R113): flat threshold; `T` and `N` are not read. -/
def execQFlat (thresh msize : Byte) (inv : Bool) (s : State)
    (c : Config := defaultConfig) : Host.Outcome State Fault Refusal :=
  .next (quantCommand c 0#4 thresh msize inv s)

/-- `Q.FS` (R145): Floyd-Steinberg. -/
def execQFs (thresh msize : Byte) (inv : Bool) (s : State)
    (c : Config := defaultConfig) : Host.Outcome State Fault Refusal :=
  .next (quantCommand c 1#4 thresh msize inv s)

/-- `Q.BAYER` (R125): ordered dithering with matrix size `N_raw`, or 4 with `UNSUP` (R88). -/
def execQBayer (thresh msize : Byte) (inv : Bool) (s : State)
    (c : Config := defaultConfig) : Host.Outcome State Fault Refusal :=
  .next (quantCommand c 2#4 thresh msize inv s)

/-- `Q.ATK` (R146): Atkinson. -/
def execQAtk (thresh msize : Byte) (inv : Bool) (s : State)
    (c : Config := defaultConfig) : Host.Outcome State Fault Refusal :=
  .next (quantCommand c 3#4 thresh msize inv s)

/-- `Q.JAR` (R147): Jarvis, Judice and Ninke. -/
def execQJar (thresh msize : Byte) (inv : Bool) (s : State)
    (c : Config := defaultConfig) : Host.Outcome State Fault Refusal :=
  .next (quantCommand c 4#4 thresh msize inv s)

/-- `Q.STU` (R148): Stucki. -/
def execQStu (thresh msize : Byte) (inv : Bool) (s : State)
    (c : Config := defaultConfig) : Host.Outcome State Fault Refusal :=
  .next (quantCommand c 5#4 thresh msize inv s)

/-- `Q.BUR` (R149): Burkes. -/
def execQBur (thresh msize : Byte) (inv : Bool) (s : State)
    (c : Config := defaultConfig) : Host.Outcome State Fault Refusal :=
  .next (quantCommand c 6#4 thresh msize inv s)

/-- `Q.SIE` (R150): Sierra. -/
def execQSie (thresh msize : Byte) (inv : Bool) (s : State)
    (c : Config := defaultConfig) : Host.Outcome State Fault Refusal :=
  .next (quantCommand c 7#4 thresh msize inv s)

/-- `Q.SIL` (R151): Sierra-Lite. -/
def execQSil (thresh msize : Byte) (inv : Bool) (s : State)
    (c : Config := defaultConfig) : Host.Outcome State Fault Refusal :=
  .next (quantCommand c 8#4 thresh msize inv s)

/-- `Q.FALLBACK.9` (R88, R96): runs as `Q.FLAT` with `UNSUP`, or is rejected when `STRICT_PARAMS`. -/
def execQFallback9 (thresh msize : Byte) (inv : Bool) (s : State)
    (c : Config := defaultConfig) : Host.Outcome State Fault Refusal :=
  .next (quantCommand c 9#4 thresh msize inv s)

/-- `Q.FALLBACK.AB` (R88, R96), `alg` 10 or 11: runs as `Q.FLAT` with `UNSUP`, or is rejected when `STRICT_PARAMS`. -/
def execQFallbackAB (alg : Nibble) (thresh msize : Byte) (inv : Bool) (s : State)
    (c : Config := defaultConfig) : Host.Outcome State Fault Refusal :=
  .next (quantCommand c alg thresh msize inv s)

/-- `Q.FALLBACK.CF` (R88, R96), `alg` 12 to 15: runs as `Q.FLAT` with `UNSUP`, or is rejected when `STRICT_PARAMS`. -/
def execQFallbackCF (alg : Nibble) (thresh msize : Byte) (inv : Bool) (s : State)
    (c : Config := defaultConfig) : Host.Outcome State Fault Refusal :=
  .next (quantCommand c alg thresh msize inv s)

end Sys2Proof.Machine
end

