-- ==== Sys2Proof/Machine/System.lean ====
section
/-! DEFINITION. The one system operation, `CLR` (R190). -/

namespace Sys2Proof.Machine

/-- `CLR` (R190): immediate, all six registers 0; its own word is not stored in `CMD`, no field is read (R86), and no open
parameter has a part in it. -/
def execClr (_alg : Nibble) (_thresh _msize : Byte) (_inv : Bool) (s : State) : Host.Outcome State Fault Refusal :=
  .next (clear s)

end Sys2Proof.Machine
end

