-- ==== Sys2Proof/Machine/Dispatch.lean ====
section
/-! DEFINITION. The meaning of every command, one arm per constructor of `Instr`, at the default configuration (entry 3). -/

namespace Sys2Proof.Machine

/-- The effect of a command in the step of its `REG.CMD` write (R21, R9). -/
def exec (i : Instr) (s : State) : Host.Outcome State Fault Refusal :=
  match i with
  | .qFlat thresh msize inv => Sys2Proof.Machine.execQFlat thresh msize inv s
  | .qFs thresh msize inv => Sys2Proof.Machine.execQFs thresh msize inv s
  | .qBayer thresh msize inv => Sys2Proof.Machine.execQBayer thresh msize inv s
  | .qAtk thresh msize inv => Sys2Proof.Machine.execQAtk thresh msize inv s
  | .qJar thresh msize inv => Sys2Proof.Machine.execQJar thresh msize inv s
  | .qStu thresh msize inv => Sys2Proof.Machine.execQStu thresh msize inv s
  | .qBur thresh msize inv => Sys2Proof.Machine.execQBur thresh msize inv s
  | .qSie thresh msize inv => Sys2Proof.Machine.execQSie thresh msize inv s
  | .qSil thresh msize inv => Sys2Proof.Machine.execQSil thresh msize inv s
  | .qFallback9 thresh msize inv => Sys2Proof.Machine.execQFallback9 thresh msize inv s
  | .qFallbackAB alg thresh msize inv => Sys2Proof.Machine.execQFallbackAB alg thresh msize inv s
  | .qFallbackCF alg thresh msize inv => Sys2Proof.Machine.execQFallbackCF alg thresh msize inv s
  | .pack alg thresh msize inv => Sys2Proof.Machine.execPack alg thresh msize inv s
  | .frame alg thresh msize inv => Sys2Proof.Machine.execFrame alg thresh msize inv s
  | .encode alg thresh msize inv => Sys2Proof.Machine.execEncode alg thresh msize inv s
  | .convert alg thresh msize inv => Sys2Proof.Machine.execConvert alg thresh msize inv s
  | .clr alg thresh msize inv => Sys2Proof.Machine.execClr alg thresh msize inv s

end Sys2Proof.Machine
end

