-- ==== Sys2Proof/Machine/Configured.lean ====
section
/-! DEFINITION. The meaning of every command under any configuration (R7, R35). -/

namespace Sys2Proof.Machine

/-- The effect of a command in the step of its `REG.CMD` write (R21, R9), with the open parameters of R7 as an argument (R35: they
are parameters of the step relation). `exec` is this at the default configuration (entry 3): the arms call the same meanings, and
`execIn_default` of Laws/Issue.lean says that the two agree. -/
def execIn (c : Config) (i : Instr) (s : State) : Host.Outcome State Fault Refusal :=
  match i with
  | .qFlat thresh msize inv => execQFlat thresh msize inv s c
  | .qFs thresh msize inv => execQFs thresh msize inv s c
  | .qBayer thresh msize inv => execQBayer thresh msize inv s c
  | .qAtk thresh msize inv => execQAtk thresh msize inv s c
  | .qJar thresh msize inv => execQJar thresh msize inv s c
  | .qStu thresh msize inv => execQStu thresh msize inv s c
  | .qBur thresh msize inv => execQBur thresh msize inv s c
  | .qSie thresh msize inv => execQSie thresh msize inv s c
  | .qSil thresh msize inv => execQSil thresh msize inv s c
  | .qFallback9 thresh msize inv => execQFallback9 thresh msize inv s c
  | .qFallbackAB alg thresh msize inv => execQFallbackAB alg thresh msize inv s c
  | .qFallbackCF alg thresh msize inv => execQFallbackCF alg thresh msize inv s c
  | .pack alg thresh msize inv => execPack alg thresh msize inv s c
  | .frame alg thresh msize inv => execFrame alg thresh msize inv s c
  | .encode alg thresh msize inv => execEncode alg thresh msize inv s c
  | .convert alg thresh msize inv => execConvert alg thresh msize inv s c
  | .clr alg thresh msize inv => execClr alg thresh msize inv s

end Sys2Proof.Machine
end

