-- ==== Sys2Proof/Machine/HostPort.lean ====
section
/-! DEFINITION. The host's two primitives on the five spaces (R51, R59, R63), the issue of a command word (R87), and reset
(R250). The parameters of R7 are an argument of whatever depends on them (R35). -/

namespace Sys2Proof.Machine

/-- A host write to `REG.CMD` (R21, R87): a word that is a command has that command's effect, any other word is rejected. While
busy both do nothing (R223). -/
def writeCommand (c : Config) (word : Word) (s : State) : Host.Outcome State Fault Refusal :=
  match decode word with
  | .ok i => execIn c i s
  | .error e => .next (issueIllegal word e s)

/-- A host write to `REG.WIDTH` (R23): bits 15:0 are stored; ignored while busy (R63). -/
def writeWidth (value : Word) (s : State) : State :=
  if s.status.busy then s else { s with width := value.setWidth 16 }

/-- A host write to `REG.HEIGHT` (R24): bits 15:0 are stored; ignored while busy (R63). -/
def writeHeight (value : Word) (s : State) : State :=
  if s.status.busy then s else { s with height := value.setWidth 16 }

/-- `HostWrite(REG, index, value)`: `CMD`, `WIDTH` and `HEIGHT` take it; `STATUS`, `PLEN`, `FLEN` and every index from 6 upward
ignore it (R20, R59). -/
def hostRegWrite (c : Config) (index : Nat) (value : Word) (s : State) : Host.Outcome State Fault Refusal :=
  match index with
  | 0 => writeCommand c value s
  | 2 => .next (writeWidth value s)
  | 3 => .next (writeHeight value s)
  | _ => .next s

/-- `HostRead(REG, index)`: the register's value; a read has no side effect on the block (R20, R66). While busy `CMD` reads as the
running command's word (R21; DEDUCED, entry 9). -/
def hostRegRead (index : Nat) (s : State) : State := { s with rdata := s.readReg index }

/-- The host may write a space: every buffer but `FRAME` (R59). -/
def hostWritable : Space → Bool
  | .pix => true
  | .mono => true
  | .payload => true
  | .frame => false

/-- `HostWrite(space, index, value)`: refused outside the buffer (R52; DEDUCED, entry 10); ignored while busy (R63) and for `FRAME` (R59);
else the byte is stored. -/
def hostBufWrite (c : Config) (sp : Space) (index : Nat) (value : Byte) (s : State) : Host.Outcome State Fault Refusal :=
  if capacity c sp ≤ index then .refused (.bufferIndexOutOfRange sp index)
  else if s.status.busy || !hostWritable sp then .next s
  else .next (s.writeBytes sp index [value])

/-- The buffers a job writes (10_state.md section 1, R81). -/
def Job.writes (j : Job) (sp : Space) : Bool :=
  match j, sp with
  | _, .pix => false
  | .quant _ _ _, .mono => true
  | .quant _ _ _, .payload => false
  | .quant _ _ _, .frame => false
  | .pack _ _, .mono => false
  | .pack _ _, .payload => true
  | .pack _ _, .frame => false
  | .frame, .mono => false
  | .frame, .payload => false
  | .frame, .frame => true
  | .encode _ _, .mono => false
  | .encode _ _, .payload => true
  | .encode _ _, .frame => true
  | .convert _ _ _, .mono => true
  | .convert _ _ _, .payload => true
  | .convert _ _ _, .frame => true

/-- The running command writes the space (R63). -/
def State.beingWritten (s : State) (sp : Space) : Bool :=
  s.status.busy && s.latch.any fun j => j.writes sp

/-- `HostRead(space, index)`: refused outside the buffer (R52; DEDUCED, entry 10); a buffer the running command writes returns a fresh
unspecified byte, any other its stored byte (R63, U3; entry 6). -/
def hostBufRead (c : Config) (sp : Space) (index : Nat) (s : State) : Host.Outcome State Fault Refusal :=
  if capacity c sp ≤ index then .refused (.bufferIndexOutOfRange sp index)
  else if s.beingWritten sp then
    .next { s with rdata := (Config.busyByte s.draws).setWidth 32, draws := s.draws + 1 }
  else .next { s with rdata := (s.readByte sp index).setWidth 32 }

/-- Reset arrives (R250, R36): the block's state is that of `State.reset`, every buffer byte unspecified anew; a running command
is abandoned. The host's own side is not reset (DESIGN CHOICE, entry 14). -/
def resetBlock (s : State) : State :=
  { State.reset with inputs := s.inputs, rdata := s.rdata, epoch := s.epoch + 1, draws := s.draws }

/-- The effect of one input (R60). -/
def serve (c : Config) (x : Input) (s : State) : Host.Outcome State Fault Refusal :=
  match x with
  | .regWrite index value => hostRegWrite c index value s
  | .regRead index => .next (hostRegRead index s)
  | .bufWrite sp index value => hostBufWrite c sp index value s
  | .bufRead sp index => hostBufRead c sp index s
  | .scan n => .next (scanMany c n s)
  | .reset => .next (resetBlock s)

/-- The input that issues a command given with the bit numbers of spec/opcode_table.json (R80). -/
def commandInput (nbits w : Nat) : Input := .regWrite 0 (tableWord nbits w)

end Sys2Proof.Machine
end

