-- ==== Sys2Proof/Machine/Step.lean ====
section
/-! DEFINITION. One step of the machine: the next input takes effect (R60); with none left, a busy block completes and an idle
block stays as it is (R224, R261; entry 1). -/

namespace Sys2Proof.Machine

/-- One step of a block with the parameters `c`: the step relation of R35. -/
def stepIn (c : Config) (s : State) : Host.Outcome State Fault Refusal :=
  match s.inputs with
  | [] => .next (finish c s)
  | x :: rest => serve c x { s with inputs := rest }

/-- One step of the block with the default parameters (DESIGN CHOICE, entry 3: the interface's step has no argument for them). -/
def step (s : State) : Host.Outcome State Fault Refusal := stepIn defaultConfig s

/-- The state whose next step is the host's write of the given word to `REG.CMD` (entry 2). -/
def State.withFetchWord (s : State) (nbits w : Nat) : State :=
  { s with inputs := commandInput nbits w :: s.inputs }

end Sys2Proof.Machine
end

