-- ==== Sys2Proof/Safety.lean ====
section
/-! DEFINITION. The terms claims use: what acceptance and completion leave as it was, the invariants of the machine, and the
declarative form of error diffusion. -/

namespace Sys2Proof.Machine

/-! ### Commands by their fields -/

/-- The `ALG` value, `THRESH`, `MSIZE` and `INVERT` of the twelve `QUANT` rows (R84, R96). -/
def quantFields : Instr → Option (Nibble × Byte × Byte × Bool)
  | .qFlat t m inv => some (0, t, m, inv)
  | .qFs t m inv => some (1, t, m, inv)
  | .qBayer t m inv => some (2, t, m, inv)
  | .qAtk t m inv => some (3, t, m, inv)
  | .qJar t m inv => some (4, t, m, inv)
  | .qStu t m inv => some (5, t, m, inv)
  | .qBur t m inv => some (6, t, m, inv)
  | .qSie t m inv => some (7, t, m, inv)
  | .qSil t m inv => some (8, t, m, inv)
  | .qFallback9 t m inv => some (9, t, m, inv)
  | .qFallbackAB alg t m inv => some (alg, t, m, inv)
  | .qFallbackCF alg t m inv => some (alg, t, m, inv)
  | .pack _ _ _ _ => none
  | .frame _ _ _ _ => none
  | .encode _ _ _ _ => none
  | .convert _ _ _ _ => none
  | .clr _ _ _ _ => none

/-- The `mask` of a command's row in spec/opcode_table.json (R96). -/
def rowMask : Instr → Word
  | .qFlat _ _ _ => 0xFF0000FE
  | .qFs _ _ _ => 0xFF0000FE
  | .qBayer _ _ _ => 0xFF0000FE
  | .qAtk _ _ _ => 0xFF0000FE
  | .qJar _ _ _ => 0xFF0000FE
  | .qStu _ _ _ => 0xFF0000FE
  | .qBur _ _ _ => 0xFF0000FE
  | .qSie _ _ _ => 0xFF0000FE
  | .qSil _ _ _ => 0xFF0000FE
  | .qFallback9 _ _ _ => 0xFF0000FE
  | .qFallbackAB _ _ _ _ => 0xFE0000FE
  | .qFallbackCF _ _ _ _ => 0xFC0000FE
  | .pack _ _ _ _ => 0xF00000FE
  | .frame _ _ _ _ => 0xF00000FE
  | .encode _ _ _ _ => 0xF00000FE
  | .convert _ _ _ _ => 0xF00000FE
  | .clr _ _ _ _ => 0xF00000FE

/-- The `match` of a command's row in spec/opcode_table.json (R96). -/
def rowMatch : Instr → Word
  | .qFlat _ _ _ => 0x10000000
  | .qFs _ _ _ => 0x11000000
  | .qBayer _ _ _ => 0x12000000
  | .qAtk _ _ _ => 0x13000000
  | .qJar _ _ _ => 0x14000000
  | .qStu _ _ _ => 0x15000000
  | .qBur _ _ _ => 0x16000000
  | .qSie _ _ _ => 0x17000000
  | .qSil _ _ _ => 0x18000000
  | .qFallback9 _ _ _ => 0x19000000
  | .qFallbackAB _ _ _ _ => 0x1A000000
  | .qFallbackCF _ _ _ _ => 0x1C000000
  | .pack _ _ _ _ => 0x20000000
  | .frame _ _ _ _ => 0x30000000
  | .encode _ _ _ _ => 0x40000000
  | .convert _ _ _ _ => 0x50000000
  | .clr _ _ _ _ => 0xF0000000

/-- A word selects the row of a command: `(w & mask) = match` (R96). -/
def SelectsRow (w : Word) (i : Instr) : Prop := w &&& rowMask i = rowMatch i

/-! ### Acceptance and completion -/

/-- The block is idle and its geometry registers pass the checks of `QUANT` and `PACK` at the default capacity (R216 lines 7 and
8). -/
def ReadyForRaster (s : State) : Prop :=
  s.status.busy = false ∧ 0 < s.imageW ∧ 0 < s.imageH ∧ s.imageW * s.imageH ≤ 23040

/-- The block is idle and its geometry is that of the printer profile, 240 by 96 (R3). -/
def ReadyForFrame (s : State) : Prop :=
  s.status.busy = false ∧ s.width = 240#16 ∧ s.height = 96#16

/-- `t` is `s` after the acceptance of a command with this word: `CMD` holds the word, `STATUS` is BUSY with this `UNSUP` and
nothing else, the latch holds `j`, the scan stands at the first index of phase `ph`, and every other register, every buffer and
everything outside the block is as it was; `WORK` alone is left open here (R38, R32, R31). -/
def AcceptedAs (s t : State) (word : Word) (unsup : Bool) (j : Job) (ph : Phase) : Prop :=
  t = { s with
    cmd := word
    status := { busy := true, done := false, err := false, unsup := unsup, errCode := 0, errSub := 0 }
    latch := some j
    seq := { phase := ph, k := 0 }
    work := t.work }

/-- `u` is `s` after the completion of a command with this word: `CMD` holds the word, `STATUS` is DONE with this `UNSUP` and
nothing else, nothing is latched, the scan is idle and `WORK` is gone; `PIX`, `WIDTH`, `HEIGHT` and everything outside the block
but the input list are as they were (that nothing is latched and the scan is (IDLE, 0) is entry 8's). `MONO`, `PAYLOAD`, `FRAME`, `PLEN` and `FLEN` are left open here (R38, R62). -/
def FinishedAs (s u : State) (word : Word) (unsup : Bool) : Prop :=
  u = { s with
    cmd := word
    status := { busy := false, done := true, err := false, unsup := unsup, errCode := 0, errSub := 0 }
    latch := none
    seq := { phase := .idle, k := 0 }
    work := []
    inputs := []
    mono := u.mono
    payload := u.payload
    frame := u.frame
    plen := u.plen
    flen := u.flen }

/-- `t` is `s` after a rejection of this word with these codes: `CMD` and `STATUS` and nothing else (R217). -/
def RejectedAs (s t : State) (word : Word) (code sub : Nibble) : Prop :=
  t = { s with
    cmd := word
    status := { busy := false, done := false, err := true, unsup := false, errCode := code, errSub := sub } }

/-- From `s` with the bytes of `MONO` alone open: no other buffer and no length register changed. -/
def OnlyMonoWritten (s u : State) : Prop :=
  u.payload = s.payload ∧ u.frame = s.frame ∧ u.plen = s.plen ∧ u.flen = s.flen

/-- Every index of a space from `n` upward reads as before (R112, R170). -/
def UnchangedFrom (s u : State) (sp : Space) (n : Nat) : Prop :=
  ∀ a, n ≤ a → u.readByte sp a = s.readByte sp a

/-- The bytes of `PAYLOAD` are the packed `MONO` of `m`, for a raster of `w` by `h` pixels (R171 to R175): the `k`-th visited
pixel, `k = x * h + y`, is bit `7 - k mod 8` of byte `k div 8` and comes from `MONO[y * w + (w - 1 - x)]`; the bits after the last
pixel are 0. -/
def PacksRaster (m u : State) (w h : Nat) : Prop :=
  (∀ x y, x < w → y < h →
    (u.readByte .payload ((x * h + y) / 8)).getLsbD (7 - (x * h + y) % 8)
      = decide (128 < (m.readByte .mono (y * w + (w - 1 - x))).toNat)) ∧
  (∀ k, w * h ≤ k → k < 8 * ((w * h + 7) / 8) → (u.readByte .payload (k / 8)).getLsbD (7 - k % 8) = false)

/-- The 2892 bytes of `FRAME` are the header, the 2880 payload bytes of `m`, and the trailer (R92, R185 to R187). -/
def HoldsFrameOf (m u : State) : Prop :=
  (u.readByte .frame 0 = 0xDD#8 ∧ u.readByte .frame 1 = 0x00#8 ∧ u.readByte .frame 2 = 0x01#8 ∧
    u.readByte .frame 3 = 0x02#8 ∧ u.readByte .frame 4 = 0x0B#8 ∧ u.readByte .frame 5 = 0x44#8 ∧
    u.readByte .frame 6 = 0x00#8 ∧ u.readByte .frame 7 = 0x0C#8 ∧ u.readByte .frame 8 = 0x01#8 ∧
    u.readByte .frame 9 = 0x00#8) ∧
  (∀ j, j < 2880 → u.readByte .frame (10 + j) = m.readByte .payload j) ∧
  (u.readByte .frame 2890 = 0x00#8 ∧ u.readByte .frame 2891 = 0xDD#8)

/-- The `QUANT` command `i`, issued in `s`, runs: it is accepted with the effective parameters `p`, the block's next step left to
itself completes it, and afterwards `MONO[q]` is 0xFF where the decision `d q` exclusive-or `inv` is 1 and 0x00 elsewhere, for the
`W * H` pixels; every other byte of `MONO`, every other buffer and every other register is as it was (R112, R114). -/
def QuantisesTo (i : Instr) (s : State) (unsup : Bool) (p : QuantParams) (d : Nat → Bool) : Prop :=
  ∃ t u, exec i s = .next t ∧ AcceptedAs s t (encode i) unsup (.quant s.imageW s.imageH p) .quantise ∧
    step { t with inputs := [] } = .next u ∧ FinishedAs s u (encode i) unsup ∧ OnlyMonoWritten s u ∧
    (∀ q, q < s.imageW * s.imageH → u.readByte .mono q = if xor (d q) p.inv then 0xFF#8 else 0x00#8) ∧
    UnchangedFrom s u .mono (s.imageW * s.imageH)

/-! ### Error diffusion, declaratively -/

/-- Pixel `p` is the neighbour of pixel `q` that a tap points to, in a raster of width `w` (R140, R143). -/
abbrev TapHits (w : Nat) (tap : Tap) (q p : Nat) : Prop :=
  ((q % w : Nat) : Int) + tap.dx = ((p % w : Nat) : Int) ∧ q / w + tap.dy = p / w

/-- The error of a pixel with working value `v` and un-inverted decision `d` (R142). -/
def errorOf (v : Rat) (d : Bool) : Rat := if d then v - 255 else v

/-- What pixel `p` has received from the pixels before it: the sum over those pixels and the taps that point to `p` of the exact
share `e * n / den` (R143). -/
def receivedBefore (k : Kernel) (w : Nat) (v : Nat → Rat) (d : Nat → Bool) (p : Nat) : Rat :=
  ((List.range p).map fun q =>
    (k.taps.map fun tap => if TapHits w tap q p then errorOf (v q) (d q) * tap.num / k.den else 0).sum).sum

/-- `v` and `d` are the working values and the un-inverted decisions of error diffusion with kernel `k` and threshold `t` over the
luminances `lum` of a raster of width `w` and `n` pixels: every working value is the pixel's own luminance plus what it received,
and a pixel is white when its working value is at least the threshold (R140 to R143, default `ED_CMP`). -/
def DiffusesTo (k : Kernel) (w n t : Nat) (lum : Nat → Nat) (v : Nat → Rat) (d : Nat → Bool) : Prop :=
  ∀ p, p < n → v p = (lum p : Rat) / 1000 + receivedBefore k w v d p ∧ d p = decide ((t : Rat) ≤ v p)

/-- `d` is the decisions of algorithm `a` with threshold `t` over the luminances `lum` of a raster of width `w` and `n` pixels, under
the parameters `c`: the flat cutoff (R113), the Bayer comparison with `NUM.bayerValue` and `NUM.half` (R124, R125), or error
diffusion with `ED_CMP`, `NUM.share` and the kernel (R140 to R143). -/
def DecidesIn (c : Config) (a : Algorithm) (w n t : Nat) (lum : Nat → Nat) (d : Nat → Bool) : Prop :=
  match a with
  | .flat => ∀ p, p < n → d p = decide (102000 < lum p)
  | .ordered size => ∀ p, p < n → d p = decide ((t : Rat) ≤ (lum p : Rat) / 1000 +
      c.bayerValue size.toNat (bayer size (p / w % size.toNat) (p % w % size.toNat)) - c.half t)
  | .diffusion k => ∃ v : Nat → Rat, ∀ p, p < n →
      v p = (lum p : Rat) / 1000 + ((List.range p).map fun q => ((kernelOf c k).taps.map fun tap =>
        if TapHits w tap q p then c.share (errorOf (v q) (d q)) tap.num (kernelOf c k).den else 0).sum).sum ∧
      d p = (match c.edCmp with
        | .ge => decide ((t : Rat) ≤ v p)
        | .gt => decide ((t : Rat) < v p))

/-- Every tap points to a pixel later in the scan (R140). -/
def ForwardKernel (k : Kernel) : Prop := ∀ tap ∈ k.taps, 0 < tap.dy ∨ (tap.dy = 0 ∧ 0 < tap.dx)

/-- A command is running and it writes the space: `QUANT` writes `MONO`, `PACK` `PAYLOAD`, `FRAME` `FRAME`, `ENCODE` the last two
and `CONVERT` all three (10_state.md section 1, R81). -/
def RunningCommandWrites (s : State) (sp : Space) : Prop :=
  s.status.busy = true ∧ ∃ j, s.latch = some j ∧
    match j with
    | .quant _ _ _ => sp = .mono
    | .pack _ _ => sp = .payload
    | .frame => sp = .frame
    | .encode _ _ => sp = .payload ∨ sp = .frame
    | .convert _ _ _ => sp = .mono ∨ sp = .payload ∨ sp = .frame

/-! ### Invariants -/

/-- Every buffer is in its canonical form. -/
def State.MemoriesCanonical (s : State) : Prop := ∀ sp, Memory.wf (s.buffer sp) = true

/-- Every written byte lies inside its buffer (R50). -/
def State.MemoriesInRange (c : Config) (s : State) : Prop := ∀ sp, Memory.below (capacity c sp) (s.buffer sp) = true

/-- The pair of codes of a rejection R211 lists. -/
def legalCodes (code sub : Nibble) : Prop :=
  (code = 1 ∧ (sub = 1 ∨ sub = 2 ∨ sub = 3 ∨ sub = 4)) ∨ (code = 2 ∧ (sub = 1 ∨ sub = 2)) ∨
    (code = 3 ∧ (sub = 1 ∨ sub = 2))

/-- `STATUS` as R22 and R38 allow it: at most one of BUSY, DONE, ERR; the codes 0 unless ERR, and a listed pair with it; `UNSUP`
only with BUSY or DONE. -/
def Status.Legal (st : Status) : Prop :=
  (st.busy = true → st.done = false ∧ st.err = false) ∧
  (st.done = true → st.err = false) ∧
  (st.err = false → st.errCode = 0 ∧ st.errSub = 0) ∧
  (st.err = true → legalCodes st.errCode st.errSub) ∧
  (st.unsup = true → st.busy = true ∨ st.done = true)

/-- What every accepted command has passed at issue (R216). -/
def Job.Legal (c : Config) : Job → Prop
  | .quant w h _ => 0 < w ∧ 0 < h ∧ w * h ≤ c.maxPix
  | .pack w h => 0 < w ∧ 0 < h ∧ w * h ≤ c.maxPix
  | .frame => True
  | .encode w h => w = 240 ∧ h = 96
  | .convert w h _ => w = 240 ∧ h = 96

/-- The phases a job passes through (R31). -/
def Job.HasPhase : Job → Phase → Prop
  | .quant _ _ _, ph => ph = .quantise
  | .pack _ _, ph => ph = .packing
  | .frame, ph => ph = .framing
  | .encode _ _, ph => ph = .packing ∨ ph = .framing
  | .convert _ _ _, ph => ph = .quantise ∨ ph = .packing ∨ ph = .framing

/-- The latch, the scan index and `WORK` agree with `BUSY`: while busy a legal job is latched and the scan stands inside one of
its phases; otherwise nothing is latched, the scan is (IDLE, 0) and `WORK` does not exist (R31, R32, R33; that an idle block has
these values is entry 8's). -/
def State.ControlLegal (c : Config) (s : State) : Prop :=
  match s.latch with
  | some j => s.status.busy = true ∧ j.Legal c ∧ j.HasPhase s.seq.phase ∧ s.seq.k < j.phaseLen s.seq.phase
  | none => s.status.busy = false ∧ s.seq = { phase := .idle, k := 0 } ∧ s.work = []

/-- `FLEN` is 0 or 2892 (R26) and `PLEN` is at most `PAYCAP` (R25). -/
def State.LengthsLegal (c : Config) (s : State) : Prop :=
  (s.flen = 0#32 ∨ s.flen = 2892#32) ∧ s.plen.toNat ≤ c.payCap

/-- The invariant of the machine under a configuration. -/
def State.Inv (c : Config) (s : State) : Prop :=
  s.MemoriesCanonical ∧ s.MemoriesInRange c ∧ s.status.Legal ∧ s.ControlLegal c ∧ s.LengthsLegal c

/-- `WORK` after the scan has processed the first `n` pixels (R140). -/
def edWorkAfter (c : Config) (k : Kernel) (w h t : Nat) (init : List Rat) : Nat → List Rat
  | 0 => init
  | n + 1 => edPixel c k w h t n (edWorkAfter c k w h t init n)

/-- `WORK` is what the scan of R140 has made of the luminances so far, all of it once QUANTISE is over; a command that is no
error diffusion has none (R33, R256). -/
def State.WorkLegal (c : Config) (s : State) : Prop :=
  match s.latch with
  | some j =>
    match j.diffusionPart with
    | some (w, h, t, k) =>
      s.work = edWorkAfter c (kernelOf c k) w h t (edInit (s.lumas (w * h)))
        (if s.seq.phase = .quantise then s.seq.k else w * h)
    | none => s.work = []
  | none => s.work = []

end Sys2Proof.Machine
end

