-- ==== Sys2Proof/Certificates/Slice0/Obligations.lean ====
section
/-! DEFINITION. The statements about the machine, for the provers. Where a statement rests on a choice of the model or on an
inference the spec marks as its own, its docstring says so. -/

open Sys2Proof Sys2Proof.Machine

/-! ### Encoding -/

/-- The decoder reads every well-formed command back from its word, with every field at every value (R80, R81, R84, R87, R96). -/
def Obligations.DecodeReadsBackEveryCommand : Prop :=
  ∀ i : Instr, i.wellFormed = true → decode (encode i) = .ok i

/-- Every word the decoder reads as a command is that command's own word, so no bit of it is dropped, and the command belongs to
its row (R80, R21, R96). -/
def Obligations.DecodedWordIsItsCommandsWord : Prop :=
  ∀ (w : Word) (i : Instr), decode w = .ok i → encode i = w ∧ i.wellFormed = true

/-- The example words of 30_encoding.md section 5 (R94) decode to the commands they are written for. -/
def Obligations.ExampleWordsDecode : Prop :=
  decode 0x11800000#32 = .ok (.qFs 128 0 false) ∧ decode 0x12800400#32 = .ok (.qBayer 128 4 false) ∧
  decode 0x13640001#32 = .ok (.qAtk 100 0 true) ∧ decode 0x50000000#32 = .ok (.convert 0 0 0 false) ∧
  decode 0x20000000#32 = .ok (.pack 0 0 0 false) ∧ decode 0x30000000#32 = .ok (.frame 0 0 0 false) ∧
  decode 0x40000000#32 = .ok (.encode 0 0 0 false) ∧ decode 0xF0000000#32 = .ok (.clr 0 0 0 false)

/-- The opcode table and the decoder agree: a word decodes to a command of a row exactly when the word masked is the row's match;
no word selects two rows; and a word that selects no row is one R85 or R89 rejects (R96). -/
def Obligations.OpcodeTableRowsAgreeWithDecoder : Prop :=
  ∀ w : Word,
    (∀ i, decode w = .ok i → SelectsRow w i) ∧
    (∀ i, SelectsRow w i → ∃ j, decode w = .ok j ∧ rowMask j = rowMask i ∧ rowMatch j = rowMatch i) ∧
    ((∀ i, ¬ SelectsRow w i) →
      w.extractLsb' 1 7 ≠ 0#7 ∨ w.extractLsb' 28 4 = 0x0#4 ∨ (0x6#4 ≤ w.extractLsb' 28 4 ∧ w.extractLsb' 28 4 ≤ 0xE#4))

/-! ### The command write -/

/-- A host write of a word that decodes to `i` runs `i`: the step is `exec i` on the state with that input taken off the list. The
second half says the same of the input that `withFetchWord` places (entry 2). At the default configuration, entry 3;
`EveryConfigurationRunsTheDecodedCommand` says it of any. -/
def Obligations.StepRunsTheDecodedCommand : Prop :=
  (∀ (s : State) (rest : List Input) (w : Word) (i : Instr), s.inputs = .regWrite 0 w :: rest → decode w = .ok i →
    step s = exec i { s with inputs := rest }) ∧
  (∀ (s : State) (w : Word) (i : Instr), decode w = .ok i → step (s.withFetchWord 32 w.toNat) = exec i s)

/-- A command whose bits 7:1 are not all 0 is rejected with IllegalCommand, RESERVED_BITS, whatever its `OP` (R85, R217). -/
def Obligations.ReservedBitsRejectWhateverTheOperation : Prop :=
  ∀ (s : State) (rest : List Input) (w : Word), s.status.busy = false → s.inputs = .regWrite 0 w :: rest →
    w.extractLsb' 1 7 ≠ 0#7 → ∃ t, step s = .next t ∧ RejectedAs { s with inputs := rest } t w 3 2

/-- A command with `OP` 0x0 or 0x6 to 0xE (and bits 7:1 zero, which are checked first) is rejected with IllegalCommand,
RESERVED_OP (R89, R217). -/
def Obligations.ReservedOperationsAreRejected : Prop :=
  ∀ (s : State) (rest : List Input) (w : Word), s.status.busy = false → s.inputs = .regWrite 0 w :: rest →
    w.extractLsb' 1 7 = 0#7 →
    (w.extractLsb' 28 4 = 0x0#4 ∨ (0x6#4 ≤ w.extractLsb' 28 4 ∧ w.extractLsb' 28 4 ≤ 0xE#4)) →
    ∃ t, step s = .next t ∧ RejectedAs { s with inputs := rest } t w 3 1

/-- A `REG.CMD` write while `BUSY = 1` is ignored, not rejected: no state of the block changes, whatever the word (R223); and so
does every command's meaning. -/
def Obligations.BusyBlockIgnoresCommandWrites : Prop :=
  (∀ (s : State) (rest : List Input) (w : Word), s.status.busy = true → s.inputs = .regWrite 0 w :: rest →
    step s = .next { s with inputs := rest }) ∧
  (∀ (i : Instr) (s : State), s.status.busy = true → exec i s = .next s)

/-- A command write has one of the four outcomes of R9 and never stops the machine: ignored (busy, nothing changes), rejected
(`CMD` and `STATUS` only), immediate (`CLR`: the six registers 0), or accepted (busy, with `CMD`, `STATUS` and the hidden state
only). -/
def Obligations.CommandWriteHasOneOfFourOutcomes : Prop :=
  ∀ (s : State) (rest : List Input) (w : Word), s.inputs = .regWrite 0 w :: rest →
    ∃ t, step s = .next t ∧
      ((s.status.busy = true ∧ t = { s with inputs := rest }) ∨
        (s.status.busy = false ∧ ∃ code sub, legalCodes code sub ∧ RejectedAs { s with inputs := rest } t w code sub) ∨
        (s.status.busy = false ∧ w.extractLsb' 28 4 = 0xF#4 ∧ t = { s with
          inputs := rest, cmd := 0, status := .zero, width := 0, height := 0, plen := 0, flen := 0 }) ∨
        (s.status.busy = false ∧ ∃ unsup j ph, AcceptedAs { s with inputs := rest } t w unsup j ph))

/-- Effect of a rejection: whenever a command write to an idle block ends with `ERR = 1`, the state after is the state before plus
`CMD` and `STATUS`, with one of the pairs of codes R211 lists (R217). -/
def Obligations.RejectionChangesOnlyCmdAndStatus : Prop :=
  ∀ (s t : State) (rest : List Input) (w : Word), s.status.busy = false → s.inputs = .regWrite 0 w :: rest →
    step s = .next t → t.status.err = true →
    ∃ code sub, legalCodes code sub ∧ RejectedAs { s with inputs := rest } t w code sub

/-- The geometry checks of `QUANT` (all twelve rows) and of `PACK`, in their order at the default capacity: ZERO_AREA, then
CAPACITY, else accepted (R112, R170, R216 lines 7, 8 and 11; entry 3). -/
def Obligations.GeometryChecksOfQuantAndPack : Prop :=
  ∀ (i : Instr) (s : State), ((quantFields i).isSome = true ∨ ∃ alg t m inv, i = .pack alg t m inv) →
    s.status.busy = false →
    ∃ u, exec i s = .next u ∧
      if s.imageW = 0 ∨ s.imageH = 0 then RejectedAs s u (encode i) 1 1
      else if 23040 < s.imageW * s.imageH then RejectedAs s u (encode i) 1 2
      else u.status.busy = true

/-- The geometry checks of `ENCODE` and `CONVERT`, in their order at the default capacity: ZERO_AREA, CAPACITY, NOT_BYTE_ALIGNED,
TARGET_MISMATCH, else accepted (R188, R189, R216 lines 7 to 11; entry 3). -/
def Obligations.GeometryChecksOfEncodeAndConvert : Prop :=
  ∀ (i : Instr) (s : State), ((∃ alg t m inv, i = .encode alg t m inv) ∨ ∃ alg t m inv, i = .convert alg t m inv) →
    s.status.busy = false →
    ∃ u, exec i s = .next u ∧
      if s.imageW = 0 ∨ s.imageH = 0 then RejectedAs s u (encode i) 1 1
      else if 23040 < s.imageW * s.imageH then RejectedAs s u (encode i) 1 2
      else if s.imageW * s.imageH % 8 ≠ 0 then RejectedAs s u (encode i) 1 3
      else if s.imageW ≠ 240 ∨ s.imageH ≠ 96 then RejectedAs s u (encode i) 1 4
      else u.status.busy = true

/-- `FRAME` makes one check, the payload length, and reads neither `WIDTH` nor `HEIGHT`: `PLEN != 2880` is rejected as
TARGET_MISMATCH, anything else accepted (R185, R216 line 6). -/
def Obligations.FrameChecksThePayloadLengthOnly : Prop :=
  ∀ (alg : Nibble) (t m : Byte) (inv : Bool) (s : State), s.status.busy = false →
    ∃ u, exec (.frame alg t m inv) s = .next u ∧
      if s.plen ≠ 2880#32 then RejectedAs s u (encode (.frame alg t m inv)) 1 4 else u.status.busy = true

/-- Lines 4 to 11 of R216 for every configuration, strict or not and of any capacity: the first check that fails decides the
codes. -/
def Obligations.ChecksInOrderForEveryConfiguration : Prop :=
  ∀ (c : Config) (word : Word) (s : State), s.status.busy = false →
    (∀ (alg : Nibble) (t m : Byte) (inv : Bool),
      let u := issue c word (.quant alg t m inv) s
      if c.strictParams = true ∧ 8#4 < alg then RejectedAs s u word 2 1
      else if c.strictParams = true ∧ alg = 2#4 ∧ m ≠ 2#8 ∧ m ≠ 4#8 ∧ m ≠ 8#8 then RejectedAs s u word 2 2
      else if s.imageW = 0 ∨ s.imageH = 0 then RejectedAs s u word 1 1
      else if c.maxPix < s.imageW * s.imageH then RejectedAs s u word 1 2
      else u.status.busy = true) ∧
    (∀ (alg : Nibble) (t m : Byte) (inv : Bool),
      let u := issue c word (.convert alg t m inv) s
      if c.strictParams = true ∧ 8#4 < alg then RejectedAs s u word 2 1
      else if c.strictParams = true ∧ alg = 2#4 ∧ m ≠ 2#8 ∧ m ≠ 4#8 ∧ m ≠ 8#8 then RejectedAs s u word 2 2
      else if s.imageW = 0 ∨ s.imageH = 0 then RejectedAs s u word 1 1
      else if c.maxPix < s.imageW * s.imageH then RejectedAs s u word 1 2
      else if s.imageW * s.imageH % 8 ≠ 0 then RejectedAs s u word 1 3
      else if s.imageW ≠ 240 ∨ s.imageH ≠ 96 then RejectedAs s u word 1 4
      else u.status.busy = true) ∧
    (let u := issue c word .frame s
      if s.plen ≠ 2880#32 then RejectedAs s u word 1 4 else u.status.busy = true) ∧
    (let u := issue c word .pack s
      if s.imageW = 0 ∨ s.imageH = 0 then RejectedAs s u word 1 1
      else if c.maxPix < s.imageW * s.imageH then RejectedAs s u word 1 2
      else u.status.busy = true) ∧
    (let u := issue c word .encode s
      if s.imageW = 0 ∨ s.imageH = 0 then RejectedAs s u word 1 1
      else if c.maxPix < s.imageW * s.imageH then RejectedAs s u word 1 2
      else if s.imageW * s.imageH % 8 ≠ 0 then RejectedAs s u word 1 3
      else if s.imageW ≠ 240 ∨ s.imageH ≠ 96 then RejectedAs s u word 1 4
      else u.status.busy = true)

/-! ### The quantisers -/

/-- `L1000(p) = 299 R + 587 G + 114 B` of the bytes at `4p`, `4p + 1`, `4p + 2`, a number from 0 to 255000, and `L(p)` is exactly a
thousandth of it (R110). -/
def Obligations.LuminanceIsTheWeightedSum : Prop :=
  ∀ (s : State) (p : Nat),
    s.luma1000 p = 299 * (s.readByte .pix (4 * p)).toNat + 587 * (s.readByte .pix (4 * p + 1)).toNat +
      114 * (s.readByte .pix (4 * p + 2)).toNat ∧ s.luma1000 p ≤ 255000 ∧
    1000 * lumaRat (s.luma1000 p) = (s.luma1000 p : Rat) ∧ 0 ≤ lumaRat (s.luma1000 p) ∧ lumaRat (s.luma1000 p) ≤ 255

/-- `Q.FLAT`, and the three fallback rows with `UNSUP = 1`, on an idle block with a legal geometry: white above 102000, black
otherwise, `inv` exchanges the two; `T` and `N` are stored in `CMD` and otherwise not read (R113, R114, R88). That the three fallback rows run
holds at the default configuration only, `STRICT_PARAMS = false` (R88, entry 3). -/
def Obligations.FlatThresholdCompletes : Prop :=
  ∀ (alg : Nibble) (t m : Byte) (inv : Bool) (s : State), ReadyForRaster s →
    QuantisesTo (.qFlat t m inv) s false ⟨.flat, t, inv⟩ (fun q => decide (102000 < s.luma1000 q)) ∧
    QuantisesTo (.qFallback9 t m inv) s true ⟨.flat, t, inv⟩ (fun q => decide (102000 < s.luma1000 q)) ∧
    (alg = 10#4 ∨ alg = 11#4 →
      QuantisesTo (.qFallbackAB alg t m inv) s true ⟨.flat, t, inv⟩ (fun q => decide (102000 < s.luma1000 q))) ∧
    (12#4 ≤ alg →
      QuantisesTo (.qFallbackCF alg t m inv) s true ⟨.flat, t, inv⟩ (fun q => decide (102000 < s.luma1000 q)))

/-- `Q.BAYER` on an idle block with a legal geometry: pixel `q` is white when `L + bv - T/2 >= T` in exact rational arithmetic, `bv`
the matrix entry of row `y mod N`, column `x mod N` times 255 over `N²`; a size other than 2, 4, 8 runs as 4 with `UNSUP` (R124,
R125, R88 at the default configuration, entry 3). -/
def Obligations.BayerDitheringCompletes : Prop :=
  ∀ (t m : Byte) (inv : Bool) (s : State) (n : MatrixSize) (unsup : Bool), ReadyForRaster s →
    ((m = 2#8 ∧ n = .n2 ∧ unsup = false) ∨ (m = 4#8 ∧ n = .n4 ∧ unsup = false) ∨ (m = 8#8 ∧ n = .n8 ∧ unsup = false) ∨
      (m ≠ 2#8 ∧ m ≠ 4#8 ∧ m ≠ 8#8 ∧ n = .n4 ∧ unsup = true)) →
    QuantisesTo (.qBayer t m inv) s unsup ⟨.ordered n, t, inv⟩ (fun q => decide ((t.toNat : Rat) ≤
      (s.luma1000 q : Rat) / 1000 +
        (bayer n (q / s.imageW % n.toNat) (q % s.imageW % n.toNat) : Rat) * 255 / ((n.toNat : Rat) * n.toNat) -
        (t.toNat : Rat) / 2))

/-- The Bayer matrices are built as R120 and R121 say: the base pattern, and each quadrant of the next size four times the matrix
before plus 0, 2, 3, 1. -/
def Obligations.BayerMatricesFollowTheRecursion : Prop :=
  (bayer .n2 0 0 = 0 ∧ bayer .n2 0 1 = 2 ∧ bayer .n2 1 0 = 3 ∧ bayer .n2 1 1 = 1) ∧
  (∀ r c, r < 4 → c < 4 → bayer .n4 r c = 4 * bayer .n2 (r % 2) (c % 2) + bayer .n2 (r / 2) (c / 2)) ∧
  (∀ r c, r < 8 → c < 8 → bayer .n8 r c = 4 * bayer .n4 (r % 4) (c % 4) + bayer .n2 (r / 4) (c / 4))

/-- The tables the spec computes from the recursion, and the permutation property (41_bayer_ditherer.md section 1; both are
inferences the spec marks as its own). -/
def Obligations.BayerTablesAndPermutation : Prop :=
  ((List.range 16).map fun i => bayer .n4 (i / 4) (i % 4)) = [0, 8, 2, 10, 12, 4, 14, 6, 3, 11, 1, 9, 15, 7, 13, 5] ∧
  ((List.range 64).map fun i => bayer .n8 (i / 8) (i % 8)) =
    [0, 32, 8, 40, 2, 34, 10, 42, 48, 16, 56, 24, 50, 18, 58, 26, 12, 44, 4, 36, 14, 46, 6, 38, 60, 28, 52, 20, 62, 30, 54, 22,
     3, 35, 11, 43, 1, 33, 9, 41, 51, 19, 59, 27, 49, 17, 57, 25, 15, 47, 7, 39, 13, 45, 5, 37, 63, 31, 55, 23, 61, 29, 53, 21] ∧
  (∀ (n : MatrixSize) (v : Nat), v < n.toNat * n.toNat →
    ∃ r c, r < n.toNat ∧ c < n.toNat ∧ bayer n r c = v ∧
      ∀ r' c', r' < n.toNat → c' < n.toNat → bayer n r' c' = v → r' = r ∧ c' = c)

/-- At the default configuration the Bayer decision is the integer comparison
`2 N² L1000 + 510000 m >= 3000 N² T` (the equivalence 41_bayer_ditherer.md section 2 states as obtained by multiplying). -/
def Obligations.BayerDecisionIsAnIntegerComparison : Prop :=
  ∀ (n : MatrixSize) (t : Byte) (x y l : Nat),
    bayerDecision defaultConfig n t x y l =
      decide (3000 * (n.toNat * n.toNat) * t.toNat ≤
        2 * (n.toNat * n.toNat) * l + 510000 * bayer n (y % n.toNat) (x % n.toNat))

/-- `Q.FS`, `Q.ATK` and `Q.SIL` on an idle block with a legal geometry: there are working values and decisions that satisfy the
error-diffusion rules with the printed kernel, exactly and with nothing clamped or wrapped, and `MONO` is those decisions, inverted
by `inv` (R140 to R146, R151 at the default configuration, entry 3). -/
def Obligations.PrintedKernelsDiffuseTheError : Prop :=
  ∀ (t m : Byte) (inv : Bool) (s : State), ReadyForRaster s →
    (∃ v d, DiffusesTo ⟨16, [⟨1, 0, 7⟩, ⟨-1, 1, 3⟩, ⟨0, 1, 5⟩, ⟨1, 1, 1⟩]⟩
        s.imageW (s.imageW * s.imageH) t.toNat s.luma1000 v d ∧
      QuantisesTo (.qFs t m inv) s false ⟨.diffusion .fs, t, inv⟩ d) ∧
    (∃ v d, DiffusesTo ⟨8, [⟨1, 0, 1⟩, ⟨2, 0, 1⟩, ⟨-1, 1, 1⟩, ⟨0, 1, 1⟩, ⟨1, 1, 1⟩, ⟨0, 2, 1⟩]⟩
        s.imageW (s.imageW * s.imageH) t.toNat s.luma1000 v d ∧
      QuantisesTo (.qAtk t m inv) s false ⟨.diffusion .atk, t, inv⟩ d) ∧
    (∃ v d, DiffusesTo ⟨4, [⟨1, 0, 2⟩, ⟨-1, 1, 1⟩, ⟨0, 1, 1⟩]⟩
        s.imageW (s.imageW * s.imageH) t.toNat s.luma1000 v d ∧
      QuantisesTo (.qSil t m inv) s false ⟨.diffusion .sil, t, inv⟩ d)

/-- The same for `Q.JAR`, `Q.STU`, `Q.BUR` and `Q.SIE` with the four tables the spec supplies from general knowledge as defaults
(R147 to R150). The tables are PRESUMED, entry 4: this holds of the default configuration only. -/
def Obligations.PublishedKernelsDiffuseTheError : Prop :=
  ∀ (t m : Byte) (inv : Bool) (s : State), ReadyForRaster s →
    (∃ v d, DiffusesTo ⟨48, [⟨1, 0, 7⟩, ⟨2, 0, 5⟩, ⟨-2, 1, 3⟩, ⟨-1, 1, 5⟩, ⟨0, 1, 7⟩, ⟨1, 1, 5⟩, ⟨2, 1, 3⟩,
        ⟨-2, 2, 1⟩, ⟨-1, 2, 3⟩, ⟨0, 2, 5⟩, ⟨1, 2, 3⟩, ⟨2, 2, 1⟩]⟩
        s.imageW (s.imageW * s.imageH) t.toNat s.luma1000 v d ∧
      QuantisesTo (.qJar t m inv) s false ⟨.diffusion .jar, t, inv⟩ d) ∧
    (∃ v d, DiffusesTo ⟨42, [⟨1, 0, 8⟩, ⟨2, 0, 4⟩, ⟨-2, 1, 2⟩, ⟨-1, 1, 4⟩, ⟨0, 1, 8⟩, ⟨1, 1, 4⟩, ⟨2, 1, 2⟩,
        ⟨-2, 2, 1⟩, ⟨-1, 2, 2⟩, ⟨0, 2, 4⟩, ⟨1, 2, 2⟩, ⟨2, 2, 1⟩]⟩
        s.imageW (s.imageW * s.imageH) t.toNat s.luma1000 v d ∧
      QuantisesTo (.qStu t m inv) s false ⟨.diffusion .stu, t, inv⟩ d) ∧
    (∃ v d, DiffusesTo ⟨32, [⟨1, 0, 8⟩, ⟨2, 0, 4⟩, ⟨-2, 1, 2⟩, ⟨-1, 1, 4⟩, ⟨0, 1, 8⟩, ⟨1, 1, 4⟩, ⟨2, 1, 2⟩]⟩
        s.imageW (s.imageW * s.imageH) t.toNat s.luma1000 v d ∧
      QuantisesTo (.qBur t m inv) s false ⟨.diffusion .bur, t, inv⟩ d) ∧
    (∃ v d, DiffusesTo ⟨32, [⟨1, 0, 5⟩, ⟨2, 0, 3⟩, ⟨-2, 1, 2⟩, ⟨-1, 1, 4⟩, ⟨0, 1, 5⟩, ⟨1, 1, 4⟩, ⟨2, 1, 2⟩,
        ⟨-1, 2, 2⟩, ⟨0, 2, 3⟩, ⟨1, 2, 2⟩]⟩
        s.imageW (s.imageW * s.imageH) t.toNat s.luma1000 v d ∧
      QuantisesTo (.qSie t m inv) s false ⟨.diffusion .sie, t, inv⟩ d)

/-- For every configuration and every kernel, whatever the share function: the sequential scan takes the decisions of the
declarative rules (R140, R141 with either `ED_CMP`, R143 with any `NUM.share`). -/
def Obligations.SequentialScanDiffusesForEveryConfiguration : Prop :=
  ∀ (c : Config) (k : Kernel) (w h : Nat) (t : Byte) (ls : List Nat), ls.length = w * h →
    ∃ (v : Nat → Rat) (d : Nat → Bool), edDecisions c k w h t ls = (List.range (w * h)).map d ∧
      ∀ p, p < w * h →
        v p = (ls.getD p 0 : Rat) / 1000 + ((List.range p).map fun q =>
          (k.taps.map fun tap => if TapHits w tap q p then c.share (errorOf (v q) (d q)) tap.num k.den else 0).sum).sum ∧
        d p = (match c.edCmp with
          | .ge => decide ((t.toNat : Rat) ≤ v p)
          | .gt => decide ((t.toNat : Rat) < v p))

/-- The scan never changes a working value after it has read it, for every kernel whose taps all point to later pixels, and the
seven kernels of the default configuration are such (R140: "`WORK[p]` is never changed after it was read"). -/
def Obligations.DecidedWorkingValuesAreFinal : Prop :=
  (∀ (c : Config) (k : Kernel) (w h t : Nat) (init : List Rat) (p n : Nat), ForwardKernel k → p ≤ n →
    (edWorkAfter c k w h t init n).getD p 0 = (edWorkAfter c k w h t init p).getD p 0) ∧
  (∀ name, ForwardKernel (kernelOf defaultConfig name))

/-- The numerators of a kernel sum to its denominator, but for Atkinson's 6 of 8 (42_error_diffusion.md section 3, an inference
of the spec; the tables of the last four are entry 4's). -/
def Obligations.KernelNumeratorsSum : Prop :=
  (kernelFs.taps.map Tap.num).sum = kernelFs.den ∧ (kernelSil.taps.map Tap.num).sum = kernelSil.den ∧
  (kernelAtk.taps.map Tap.num).sum = 6 ∧ kernelAtk.den = 8 ∧
  (kernelJar.taps.map Tap.num).sum = kernelJar.den ∧ (kernelStu.taps.map Tap.num).sum = kernelStu.den ∧
  (kernelBur.taps.map Tap.num).sum = kernelBur.den ∧ (kernelSie.taps.map Tap.num).sum = kernelSie.den

/-- With `T` from 1 to 255, at the default configuration (entry 3; four of the kernels are entry 4's), an all-black raster is decided
black at every pixel and an all-white one white under every kernel, and `MONO` holds that, complemented where `inv` is 1; at every
place of the scan every working value is 0 (black) or 255 (white) and the error it leaves is 0 (42_error_diffusion.md section 3
(c), an inference of the spec). -/
def Obligations.UniformRastersPassErrorDiffusion : Prop :=
  ∀ (i : Instr) (alg : Nibble) (t m : Byte) (inv : Bool) (s : State), quantFields i = some (alg, t, m, inv) →
    (alg = 1#4 ∨ alg = 3#4 ∨ alg = 4#4 ∨ alg = 5#4 ∨ alg = 6#4 ∨ alg = 7#4 ∨ alg = 8#4) → 1 ≤ t.toNat →
    ReadyForRaster s →
    ∃ k,
      ((∀ p, p < s.imageW * s.imageH → s.luma1000 p = 0) →
        QuantisesTo i s false ⟨.diffusion k, t, inv⟩ (fun _ => false) ∧
        ∀ n p, p < s.imageW * s.imageH → ∃ v, v = (edWorkAfter defaultConfig (kernelOf defaultConfig k) s.imageW s.imageH
          t.toNat (edInit (s.lumas (s.imageW * s.imageH))) n).getD p 0 ∧ v = 0 ∧ errorOf v (decide ((t.toNat : Rat) ≤ v)) = 0) ∧
      ((∀ p, p < s.imageW * s.imageH → s.luma1000 p = 255000) →
        QuantisesTo i s false ⟨.diffusion k, t, inv⟩ (fun _ => true) ∧
        ∀ n p, p < s.imageW * s.imageH → ∃ v, v = (edWorkAfter defaultConfig (kernelOf defaultConfig k) s.imageW s.imageH
          t.toNat (edInit (s.lumas (s.imageW * s.imageH))) n).getD p 0 ∧ v = 255 ∧ errorOf v (decide ((t.toNat : Rat) ≤ v)) = 0)

/-- Every `QUANT` command on an idle block with a legal geometry runs and writes only 0x00 and 0xFF into the pixels it writes
(R28, R112: "every output pixel is exactly black or white"). At the default configuration (entry 3): with `STRICT_PARAMS = true` the
fallback rows and unsupported matrix sizes are rejected instead (R88). -/
def Obligations.EveryQuantiserWritesBlackOrWhite : Prop :=
  ∀ (i : Instr) (s : State), (quantFields i).isSome = true → ReadyForRaster s →
    ∃ t u, exec i s = .next t ∧ t.status.busy = true ∧ step { t with inputs := [] } = .next u ∧
      u.status.done = true ∧
      ∀ q, q < s.imageW * s.imageH → u.readByte .mono q = 0x00#8 ∨ u.readByte .mono q = 0xFF#8

/-- Two `QUANT` commands that differ in `INVERT` alone give complementary rasters (R114 draws this from the rules of the nine
algorithms). At the default configuration (entry 3), where every `QUANT` row runs. -/
def Obligations.InvertComplementsEveryQuantiser : Prop :=
  ∀ (i i' : Instr) (alg : Nibble) (t m : Byte) (s : State),
    quantFields i = some (alg, t, m, false) → quantFields i' = some (alg, t, m, true) → ReadyForRaster s →
    ∃ a u b v, exec i s = .next a ∧ step { a with inputs := [] } = .next u ∧
      exec i' s = .next b ∧ step { b with inputs := [] } = .next v ∧
      ∀ q, q < s.imageW * s.imageH → v.readByte .mono q = ~~~(u.readByte .mono q)

/-- The result of a `QUANT` command depends on the R, G and B bytes of its own pixels alone: two states with the same geometry that
agree on those bytes get the same `MONO` pixels, whatever their A bytes, the rest of `PIX`, the other buffers and the hidden state
hold (R90, R112, R263). At the default configuration (entry 3). -/
def Obligations.QuantiserReadsOnlyTheColourBytes : Prop :=
  ∀ (i : Instr) (s s' : State), (quantFields i).isSome = true → ReadyForRaster s → ReadyForRaster s' →
    s'.width = s.width → s'.height = s.height →
    (∀ p, p < s.imageW * s.imageH → s'.readByte .pix (4 * p) = s.readByte .pix (4 * p) ∧
      s'.readByte .pix (4 * p + 1) = s.readByte .pix (4 * p + 1) ∧
      s'.readByte .pix (4 * p + 2) = s.readByte .pix (4 * p + 2)) →
    ∃ t u t' u', exec i s = .next t ∧ step { t with inputs := [] } = .next u ∧
      exec i s' = .next t' ∧ step { t' with inputs := [] } = .next u' ∧
      ∀ p, p < s.imageW * s.imageH → u'.readByte .mono p = u.readByte .mono p

/-! ### The encoder -/

/-- `PACK` on an idle block with a legal geometry: `PAYLOAD` holds the mirrored raster in column-major order, eight pixels a byte,
most significant bit first, zero padded, `PLEN` is `ceil(W * H / 8)`, and nothing else changes (R170 to R175, R38, R62). That the
hidden state is idle afterwards (nothing latched, the scan at (IDLE, 0), no `WORK`) is the model's choice, entry 8. -/
def Obligations.PackCompletes : Prop :=
  ∀ (alg : Nibble) (t m : Byte) (inv : Bool) (s : State), ReadyForRaster s →
    ∃ a u, exec (.pack alg t m inv) s = .next a ∧
      AcceptedAs s a (encode (.pack alg t m inv)) false (.pack s.imageW s.imageH) .packing ∧
      step { a with inputs := [] } = .next u ∧ FinishedAs s u (encode (.pack alg t m inv)) false ∧
      u.mono = s.mono ∧ u.frame = s.frame ∧ u.flen = s.flen ∧
      u.plen = BitVec.ofNat 32 ((s.imageW * s.imageH + 7) / 8) ∧ PacksRaster s u s.imageW s.imageH ∧
      UnchangedFrom s u .payload ((s.imageW * s.imageH + 7) / 8)

/-- The packed bytes depend on `mono_bit` of the raster's own pixels alone (43_raster_bit_packer.md section "Properties" (b), an
inference of the spec). -/
def Obligations.PackDependsOnMonoBitsOnly : Prop :=
  ∀ (alg : Nibble) (t m : Byte) (inv : Bool) (s s' : State), ReadyForRaster s → ReadyForRaster s' →
    s'.width = s.width → s'.height = s.height →
    (∀ p, p < s.imageW * s.imageH →
      (128 < (s'.readByte .mono p).toNat ↔ 128 < (s.readByte .mono p).toNat)) →
    ∃ a u a' u', exec (.pack alg t m inv) s = .next a ∧ step { a with inputs := [] } = .next u ∧
      exec (.pack alg t m inv) s' = .next a' ∧ step { a' with inputs := [] } = .next u' ∧
      ∀ j, j < (s.imageW * s.imageH + 7) / 8 → u'.readByte .payload j = u.readByte .payload j

/-- `FRAME` on an idle block with `PLEN = 2880`: the 2892 bytes of `FRAME` are the header, `PAYLOAD[0 .. 2879]` as it stands and the
trailer, `FLEN` is 2892, and nothing else changes (R185, R186, R187, R92, R38, R62). That the hidden state is idle afterwards
(nothing latched, the scan at (IDLE, 0), no `WORK`) is the model's choice, entry 8; that `FRAME` latches no geometry is entry 13's
(DEDUCED). -/
def Obligations.FrameCompletes : Prop :=
  ∀ (alg : Nibble) (t m : Byte) (inv : Bool) (s : State), s.status.busy = false → s.plen = 2880#32 →
    ∃ a u, exec (.frame alg t m inv) s = .next a ∧
      AcceptedAs s a (encode (.frame alg t m inv)) false .frame .framing ∧
      step { a with inputs := [] } = .next u ∧ FinishedAs s u (encode (.frame alg t m inv)) false ∧
      u.mono = s.mono ∧ u.payload = s.payload ∧ u.plen = s.plen ∧ u.flen = 2892#32 ∧ HoldsFrameOf s u

/-- `ENCODE` on an idle block with the geometry 240 by 96: what `PACK` does, then what `FRAME` does with the payload just packed, as
one step (R188). -/
def Obligations.EncodeCompletes : Prop :=
  ∀ (alg : Nibble) (t m : Byte) (inv : Bool) (s : State), ReadyForFrame s →
    ∃ a u, exec (.encode alg t m inv) s = .next a ∧
      AcceptedAs s a (encode (.encode alg t m inv)) false (.encode 240 96) .packing ∧
      step { a with inputs := [] } = .next u ∧ FinishedAs s u (encode (.encode alg t m inv)) false ∧
      u.mono = s.mono ∧ u.plen = 2880#32 ∧ PacksRaster s u 240 96 ∧ UnchangedFrom s u .payload 2880 ∧
      u.flen = 2892#32 ∧ HoldsFrameOf u u

/-- `CONVERT` is `QUANT` with the same fields, wait, `ENCODE`, wait: on an idle block with the geometry 240 by 96, for every value
of every field, its end state is that of the sequence but for `CMD` and for `UNSUP`, which `CONVERT` keeps as its `QUANT` part set
it (R189; entry 15 on `UNSUP`). That it holds for every value of every field rests on the default configuration (entry 3): with
`STRICT_PARAMS = true` a `CONVERT` with an unsupported field is rejected. -/
def Obligations.ConvertEqualsQuantThenEncode : Prop :=
  ∀ (alg : Nibble) (t m : Byte) (inv : Bool) (s : State), ReadyForFrame s →
    ∃ a u b v x y, exec (decodeQuant alg t m inv) s = .next a ∧ step { a with inputs := [] } = .next u ∧
      exec (.encode 0 0 0 false) u = .next b ∧ step { b with inputs := [] } = .next v ∧
      exec (.convert alg t m inv) s = .next x ∧
      AcceptedAs s x (encode (.convert alg t m inv)) (fallbackTaken alg m)
        (.convert 240 96 (effectiveParams alg t m inv)) .quantise ∧
      step { x with inputs := [] } = .next y ∧
      y = { v with
        cmd := encode (.convert alg t m inv)
        status := { busy := false, done := true, err := false, unsup := u.status.unsup, errCode := 0, errSub := 0 } }

/-- The document's end-to-end scenario for any all-white 240 by 96 raster: `CONVERT` with the flat threshold gives `MONO` and
`PAYLOAD` all 0xFF and the frame of 2880 bytes 0xFF between header and trailer (95_test_vectors.md P2). -/
def Obligations.AllWhiteRasterConvertsToTheKnownFrame : Prop :=
  ∀ (t m : Byte) (s : State), ReadyForFrame s → (∀ p, p < 23040 → s.luma1000 p = 255000) →
    ∃ a u, exec (.convert 0 t m false) s = .next a ∧ step { a with inputs := [] } = .next u ∧
      FinishedAs s u (encode (.convert 0 t m false)) false ∧ u.plen = 2880#32 ∧ u.flen = 2892#32 ∧
      (∀ p, p < 23040 → u.readByte .mono p = 0xFF#8) ∧ (∀ j, j < 2880 → u.readByte .payload j = 0xFF#8) ∧
      HoldsFrameOf u u

/-- The fields an operation does not read have no effect but on the word `CMD` stores: after completion the two states differ in
`CMD` alone, and after `CLR` not at all (R86). For `QUANT` and `CONVERT`, `MSIZE` is not read unless the effective algorithm is 2,
nor `THRESH` when it is 0. At the default configuration (entry 3), where the fallback rows run with the effective algorithm 0
(R88). -/
def Obligations.UnreadFieldsHaveNoEffect : Prop :=
  ∀ (alg alg' : Nibble) (t t' m m' : Byte) (inv inv' : Bool) (s : State),
    exec (.clr alg t m inv) s = exec (.clr alg' t' m' inv') s ∧
    (∀ i i', ((i = .pack alg t m inv ∧ i' = .pack alg' t' m' inv') ∨ (i = .qFlat t m inv ∧ i' = .qFlat t' m' inv) ∨
        (i = .qFs t m inv ∧ i' = .qFs t m' inv) ∨ (i = .qAtk t m inv ∧ i' = .qAtk t m' inv) ∨
        (i = .qJar t m inv ∧ i' = .qJar t m' inv) ∨ (i = .qStu t m inv ∧ i' = .qStu t m' inv) ∨
        (i = .qBur t m inv ∧ i' = .qBur t m' inv) ∨ (i = .qSie t m inv ∧ i' = .qSie t m' inv) ∨
        (i = .qSil t m inv ∧ i' = .qSil t m' inv) ∨ (i = .qFallback9 t m inv ∧ i' = .qFallback9 t' m' inv) ∨
        ((alg = 10#4 ∨ alg = 11#4) ∧ i = .qFallbackAB alg t m inv ∧ i' = .qFallbackAB alg t' m' inv) ∨
        (12#4 ≤ alg ∧ i = .qFallbackCF alg t m inv ∧ i' = .qFallbackCF alg t' m' inv)) →
      ReadyForRaster s →
      ∃ a u b v, exec i s = .next a ∧ step { a with inputs := [] } = .next u ∧
        exec i' s = .next b ∧ step { b with inputs := [] } = .next v ∧ v = { u with cmd := encode i' }) ∧
    (ReadyForFrame s → s.plen = 2880#32 →
      ∀ i i', ((i = .frame alg t m inv ∧ i' = .frame alg' t' m' inv') ∨
          (i = .encode alg t m inv ∧ i' = .encode alg' t' m' inv') ∨
          ((alg = 0#4 ∨ 8#4 < alg) ∧ i = .convert alg t m inv ∧ i' = .convert alg t' m' inv) ∨
          (alg ≠ 2#4 ∧ i = .convert alg t m inv ∧ i' = .convert alg t m' inv)) →
        ∃ a u b v, exec i s = .next a ∧ step { a with inputs := [] } = .next u ∧
          exec i' s = .next b ∧ step { b with inputs := [] } = .next v ∧ v = { u with cmd := encode i' })

/-- Issuing the same command twice on the same inputs gives the same outputs: after any command that can run on a 240 by 96 raster
has completed, issuing it again and completing it gives the very same state (R263). At the default configuration (entry 3), where
every command but `CLR` runs on such a raster. -/
def Obligations.SameCommandTwiceGivesTheSameState : Prop :=
  ∀ (i : Instr) (s : State), ReadyForFrame s → s.plen = 2880#32 → (∀ alg t m inv, i ≠ .clr alg t m inv) →
    ∃ a u b, exec i s = .next a ∧ step { a with inputs := [] } = .next u ∧
      exec i u = .next b ∧ step b = .next u

/-- `CLR` on an idle block: all six registers 0 at once, `CMD` too, the four buffers and everything else as they were; while busy it
is ignored (R190). -/
def Obligations.ClrZeroesTheSixRegisters : Prop :=
  ∀ (alg : Nibble) (t m : Byte) (inv : Bool) (s : State),
    (s.status.busy = false → exec (.clr alg t m inv) s = .next { s with
      cmd := 0, status := ⟨false, false, false, false, 0, 0⟩, width := 0, height := 0, plen := 0, flen := 0 }) ∧
    (s.status.busy = true → exec (.clr alg t m inv) s = .next s)

/-! ### The host's accesses -/

/-- `HostRead(REG, index)` returns the six registers and 0 from index 6 upward, busy or not, and changes nothing of the block
(R20, R66). The value is put where the model keeps what the host last read (entry 7). That `CMD` reads as the running command's word
while busy is the model's reading of R63 against R21 (entry 9, DEDUCED). -/
def Obligations.RegisterReadsReturnTheRegisters : Prop :=
  ∀ (s : State) (rest : List Input) (index : Nat), s.inputs = .regRead index :: rest →
    ∃ v, step s = .next { s with inputs := rest, rdata := v } ∧
      (index = 0 → v = s.cmd) ∧ (index = 1 → v = s.status.toWord) ∧ (index = 2 → v = s.width.setWidth 32) ∧
      (index = 3 → v = s.height.setWidth 32) ∧ (index = 4 → v = s.plen) ∧ (index = 5 → v = s.flen) ∧
      (6 ≤ index → v = 0#32)

/-- The fields of the word read from `REG.STATUS` (R22): `BUSY` bit 0, `DONE` bit 1, `ERR` bit 2, `UNSUP` bit 3, `ERRCODE` bits
7:4, `ERRSUB` bits 11:8, bits 31:12 zero. -/
def Obligations.StatusWordHasTheStatedLayout : Prop :=
  ∀ st : Status, st.toWord.getLsbD 0 = st.busy ∧ st.toWord.getLsbD 1 = st.done ∧ st.toWord.getLsbD 2 = st.err ∧
    st.toWord.getLsbD 3 = st.unsup ∧ st.toWord.extractLsb' 4 4 = st.errCode ∧ st.toWord.extractLsb' 8 4 = st.errSub ∧
    st.toWord.extractLsb' 12 20 = 0#20

/-- A host write to `WIDTH` or `HEIGHT` of an idle block stores bits 15:0 and nothing else, and the register then reads as those
bits with bits 31:16 zero; while busy it is ignored (R23, R24). -/
def Obligations.WidthAndHeightStoreTheirLowHalf : Prop :=
  ∀ (s : State) (rest : List Input) (v : Word),
    (s.inputs = .regWrite 2 v :: rest → ∃ t, step s = .next t ∧
      if s.status.busy then t = { s with inputs := rest }
      else t = { s with inputs := rest, width := t.width } ∧ t.readReg 2 = v &&& 0xFFFF#32) ∧
    (s.inputs = .regWrite 3 v :: rest → ∃ t, step s = .next t ∧
      if s.status.busy then t = { s with inputs := rest }
      else t = { s with inputs := rest, height := t.height } ∧ t.readReg 3 = v &&& 0xFFFF#32)

/-- A host write to `STATUS`, `PLEN`, `FLEN`, to a register index from 6 upward or to a byte of `FRAME` is ignored: no state changes
and no error is recorded (R59, R20). -/
def Obligations.ReadOnlyStateIgnoresHostWrites : Prop :=
  ∀ (s : State) (rest : List Input) (index : Nat),
    (∀ v, s.inputs = .regWrite index v :: rest → (index = 1 ∨ index = 4 ∨ index = 5 ∨ 6 ≤ index) →
      step s = .next { s with inputs := rest }) ∧
    (∀ v, s.inputs = .bufWrite .frame index v :: rest → index < 2892 → step s = .next { s with inputs := rest })

/-- A host write of one byte to `PIX`, `MONO` or `PAYLOAD` of an idle block, inside the buffer: that byte reads as the value written,
every other byte of every space reads as before, and no register changes (R51, R57, R60, R50). -/
def Obligations.HostByteWriteIsReadBack : Prop :=
  ∀ (s : State) (rest : List Input) (sp : Space) (index : Nat) (v : Byte), s.status.busy = false →
    s.inputs = .bufWrite sp index v :: rest → sp ≠ .frame →
    ((sp = .pix → index < 92160) ∧ (sp = .mono → index < 23040) ∧ (sp = .payload → index < 2880)) →
    ∃ t, step s = .next t ∧ t.readByte sp index = v ∧
      (∀ sp' a, (sp' ≠ sp ∨ a ≠ index) → t.readByte sp' a = s.readByte sp' a) ∧
      t = { s with inputs := rest, pix := t.pix, mono := t.mono, payload := t.payload }

/-- A host access to a buffer index is refused exactly when the index lies outside the buffer, busy or not, for every configuration
and so for every `MAXPIX` (R52, R50; that the refusal comes before the busy rule is entry 10's). -/
def Obligations.OutOfRangeAccessesAreRefused : Prop :=
  ∀ (c : Config) (s : State) (rest : List Input) (sp : Space) (index cap : Nat),
    ((sp = .pix ∧ cap = 4 * c.maxPix) ∨ (sp = .mono ∧ cap = c.maxPix) ∨ (sp = .payload ∧ cap = (c.maxPix + 7) / 8) ∨
      (sp = .frame ∧ cap = 2892)) →
    (∀ v, s.inputs = .bufWrite sp index v :: rest →
      if cap ≤ index then stepIn c s = .refused (.bufferIndexOutOfRange sp index) else ∃ t, stepIn c s = .next t) ∧
    (s.inputs = .bufRead sp index :: rest →
      if cap ≤ index then stepIn c s = .refused (.bufferIndexOutOfRange sp index) else ∃ t, stepIn c s = .next t)

/-- While `BUSY = 1` a host write to any register or to any byte of a buffer is ignored, for every configuration (R63). -/
def Obligations.BusyBlockIgnoresHostWrites : Prop :=
  ∀ (c : Config) (s : State) (rest : List Input) (index : Nat), s.status.busy = true →
    (∀ v, s.inputs = .regWrite index v :: rest → stepIn c s = .next { s with inputs := rest }) ∧
    (∀ sp v, s.inputs = .bufWrite sp index v :: rest → index < capacity c sp →
      stepIn c s = .next { s with inputs := rest })

/-- A host read of a byte: a buffer the running command writes returns the next unspecified byte, whatever it is; any other buffer
returns its stored byte; nothing else changes (R63, R66). That the unspecified byte is a free value numbered by a counter is the
model's form, entry 6. For every configuration. -/
def Obligations.BufferReadsWhileBusy : Prop :=
  ∀ (c : Config) (s : State) (rest : List Input) (sp : Space) (index : Nat), s.inputs = .bufRead sp index :: rest →
    index < capacity c sp →
    (RunningCommandWrites s sp → stepIn c s = .next { s with
      inputs := rest, rdata := (Config.busyByte s.draws).setWidth 32, draws := s.draws + 1 }) ∧
    (¬ RunningCommandWrites s sp →
      stepIn c s = .next { s with inputs := rest, rdata := (s.readByte sp index).setWidth 32 })

/-! ### Reset -/

/-- The state after reset: the six registers read 0, the scan is idle, and every byte of every buffer reads as the free value of that
reset, of which nothing is known (R36). That an unspecified byte is a free value numbered by resets is the model's form, entry 5. -/
def Obligations.ResetLeavesTheStatedValues : Prop :=
  (∀ index, State.reset.readReg index = 0#32) ∧ State.reset.seq = { phase := .idle, k := 0 } ∧
  (∀ sp a, State.reset.readByte sp a = Config.resetByte 0 sp a)

/-- Reset may arrive at any time, also while `BUSY = 1`: registers 0, scan idle, a running command abandoned, every byte of every
buffer unspecified anew (R250). That the latch and `WORK` are then empty is entry 8, that the host's side is kept entry 14. -/
def Obligations.ResetArrivesAtAnyTime : Prop :=
  ∀ (s : State) (rest : List Input), s.inputs = .reset :: rest →
    ∃ t, step s = .next t ∧ (∀ index, t.readReg index = 0#32) ∧ t.status.busy = false ∧
      t.seq = { phase := .idle, k := 0 } ∧ t.latch = none ∧ t.work = [] ∧
      (∀ sp a, t.readByte sp a = Config.resetByte (s.epoch + 1) sp a) ∧ t.inputs = rest

/-- The state after reset satisfies the invariant and the invariant of `WORK`, for every configuration. -/
def Obligations.ResetSatisfiesTheInvariant : Prop :=
  ∀ c : Config, State.reset.Inv c ∧ State.reset.WorkLegal c

/-! ### Every step -/

/-- Every step keeps the invariant: buffers canonical and inside their spaces, `STATUS` legal (at most one of BUSY, DONE, ERR; codes
of R211), the latch, the scan index and BUSY in agreement, `FLEN` 0 or 2892, `PLEN` at most `PAYCAP` (R22, R25, R26, R31, R32, R38,
R50, R211). The second half says it for every configuration, so for every `MAXPIX` (R35). That an idle block has nothing latched
and its scan at (IDLE, 0) is entry 8's. -/
def Obligations.EveryStepKeepsTheInvariant : Prop :=
  (∀ s t : State, s.Inv defaultConfig → step s = .next t → t.Inv defaultConfig) ∧
  ∀ (c : Config) (s t : State), s.Inv c → stepIn c s = .next t → t.Inv c

/-- Every step keeps the canonical form of the four buffers, from any state at all and under every configuration. -/
def Obligations.EveryStepKeepsTheBuffersCanonical : Prop :=
  (∀ s t : State, s.MemoriesCanonical → step s = .next t → t.MemoriesCanonical) ∧
  ∀ (c : Config) (s t : State), s.MemoriesCanonical → stepIn c s = .next t → t.MemoriesCanonical

/-- Every step keeps `WORK` as the scan of R140 would have made it from the luminances of the raster: created from luminance, one
pixel of the scan per position, gone with the command (R33, R140, R256; its form is entry 11's). The second half says it for every
configuration. -/
def Obligations.EveryStepKeepsWorkOnTheScan : Prop :=
  (∀ s t : State, s.Inv defaultConfig → s.WorkLegal defaultConfig → step s = .next t → t.WorkLegal defaultConfig) ∧
  ∀ (c : Config) (s t : State), s.Inv c → s.WorkLegal c → stepIn c s = .next t → t.WorkLegal c

/-- One position of the scan of a busy block, `n` being the number of indices of its phase (`W * H` in QUANTISE and PACKING, 2892 in
FRAMING): the index advances by 1 inside its phase; after the last index a `CONVERT` goes from QUANTISE to PACKING, a `CONVERT` or
`ENCODE` from PACKING to FRAMING, each at index 0; and the command completes after the last index of its last phase, which is
QUANTISE for `QUANT`, PACKING for `PACK`, and FRAMING for `FRAME`, `ENCODE` and `CONVERT`. Before completion nothing but the scan
index and `WORK` changes (R31, R62; its form is entry 11's). -/
def Obligations.ScanPassesThePhasesInOrder : Prop :=
  ∀ (c : Config) (s : State) (j : Job) (n : Nat), s.ControlLegal c → s.latch = some j →
    ((s.seq.phase = .framing ∧ n = 2892) ∨
      (s.seq.phase ≠ .framing ∧ ((∃ w h p, (j = .quant w h p ∨ j = .convert w h p) ∧ n = w * h) ∨
        ∃ w h, (j = .pack w h ∨ j = .encode w h) ∧ n = w * h))) →
    (s.seq.k + 1 < n ∧
      ∃ wk, scanOne c s = { s with seq := { phase := s.seq.phase, k := s.seq.k + 1 }, work := wk }) ∨
    (s.seq.k + 1 = n ∧ s.seq.phase = .quantise ∧ (∃ w h p, j = .convert w h p) ∧
      ∃ wk, scanOne c s = { s with seq := { phase := .packing, k := 0 }, work := wk }) ∨
    (s.seq.k + 1 = n ∧ s.seq.phase = .packing ∧
      ((∃ w h p, j = .convert w h p) ∨ ∃ w h, j = .encode w h) ∧
      ∃ wk, scanOne c s = { s with seq := { phase := .framing, k := 0 }, work := wk }) ∨
    (s.seq.k + 1 = n ∧
      ((s.seq.phase = .quantise ∧ ∃ w h p, j = .quant w h p) ∨ (s.seq.phase = .packing ∧ ∃ w h, j = .pack w h) ∨
        (s.seq.phase = .framing ∧ (j = .frame ∨ (∃ w h, j = .encode w h) ∨ ∃ w h p, j = .convert w h p))) ∧
      scanOne c s = complete c s)

/-- Every accepted command reaches its completion step within a bounded number of scan positions, `2 * MAXPIX + 2892` (48972 at the
default capacity), and up to that step nothing but the hidden scan index and `WORK` changes (R218, R261, R62; the scan's form is
entry 11's). -/
def Obligations.EveryAcceptedCommandCompletes : Prop :=
  ∀ (c : Config) (s : State), s.ControlLegal c → s.status.busy = true →
    ∃ n, 0 < n ∧ n ≤ 2 * c.maxPix + 2892 ∧ scanMany c n s = complete c s ∧
      ∀ m, m < n → ∃ q wk, scanMany c m s = { s with seq := q, work := wk }

/-- With no host action pending the next step of a busy block is its completion step, with `BUSY` cleared and `DONE` set, and an
idle block keeps all its state (R62, R224, R261; the form is entry 1's; the completion step is that of the default configuration, entry
3). -/
def Obligations.BlockLeftToItselfBecomesIdle : Prop :=
  ∀ s : State, s.inputs = [] →
    (s.status.busy = true → ∃ t, step s = .next t ∧ t = complete defaultConfig s ∧ t.status.busy = false ∧
      t.status.done = true ∧ t.status.unsup = s.status.unsup) ∧
    (s.status.busy = false → step s = .next s)

/-- A running command is disturbed by nothing but reset: a step of a busy block leaves every register, every buffer, the latch and
the reset count as they are, or is the completion step, or is reset (R63, R223, R250). At the default configuration (entry 3). -/
def Obligations.OnlyCompletionOrResetEndsACommand : Prop :=
  ∀ s t : State, s.status.busy = true → step s = .next t →
    t = { s with inputs := t.inputs, seq := t.seq, work := t.work, rdata := t.rdata, draws := t.draws } ∨
    t = { complete defaultConfig s with inputs := t.inputs } ∨
    (s.inputs.head? = some .reset ∧ t = resetBlock { s with inputs := s.inputs.tail })

/-- `PIX` is never written by the block: a step that is neither a host write to `PIX` nor reset leaves it as it is, from any state
(R27). -/
def Obligations.BlockNeverWritesPix : Prop :=
  ∀ s t : State, step s = .next t → s.inputs.head? ≠ some .reset →
    (∀ index v, s.inputs.head? ≠ some (.bufWrite .pix index v)) → t.pix = s.pix

/-- A frame stays as it was assembled until a command completes or reset arrives: a step of an idle block other than reset leaves
every byte of `FRAME`, and it leaves `FLEN` and `PLEN` too unless it is a `CLR`, which zeroes them (R30, R59, R25, R26). -/
def Obligations.IdleStepsKeepTheFrame : Prop :=
  ∀ s t : State, s.status.busy = false → step s = .next t → s.inputs.head? ≠ some .reset →
    t.frame = s.frame ∧ ((t.flen = s.flen ∧ t.plen = s.plen) ∨
      (t.flen = 0#32 ∧ t.plen = 0#32 ∧ ∃ w, s.inputs.head? = some (.regWrite 0 w) ∧ w.extractLsb' 28 4 = 0xF#4))

/-! ### Every configuration -/

/-- With the open parameters as an argument, a host write of a word that decodes to `i` runs `i` under the parameters of the block
(R7, R35: they are parameters of the step relation); and `step` and `exec` are the step and the meaning at the default parameters
(entry 3). -/
def Obligations.EveryConfigurationRunsTheDecodedCommand : Prop :=
  (∀ (c : Config) (s : State) (rest : List Input) (w : Word) (i : Instr), s.inputs = .regWrite 0 w :: rest →
    decode w = .ok i → stepIn c s = execIn c i { s with inputs := rest }) ∧
  (∀ s : State, step s = stepIn defaultConfig s) ∧ ∀ (i : Instr) (s : State), exec i s = execIn defaultConfig i s

/-- A `QUANT` command written to an idle block, under every configuration: rejected when `STRICT_PARAMS` and a parameter is
unsupported, rejected for the geometry at this `MAXPIX`, and otherwise accepted with the effective parameters; its completion step
then writes the decisions of the effective algorithm, computed with this configuration's `ED_CMP`, `NUM` functions and kernels,
and nothing else (R7, R35, R88, R112, R113, R125, R140 to R144, R216). -/
def Obligations.QuantRunsUnderEveryConfiguration : Prop :=
  ∀ (c : Config) (i : Instr) (alg : Nibble) (t m : Byte) (inv : Bool) (s : State),
    quantFields i = some (alg, t, m, inv) → s.status.busy = false →
    ∃ u, execIn c i s = .next u ∧
      if c.strictParams = true ∧ 8#4 < alg then RejectedAs s u (encode i) 2 1
      else if c.strictParams = true ∧ alg = 2#4 ∧ m ≠ 2#8 ∧ m ≠ 4#8 ∧ m ≠ 8#8 then RejectedAs s u (encode i) 2 2
      else if s.imageW = 0 ∨ s.imageH = 0 then RejectedAs s u (encode i) 1 1
      else if c.maxPix < s.imageW * s.imageH then RejectedAs s u (encode i) 1 2
      else
        AcceptedAs s u (encode i) (fallbackTaken alg m)
          (.quant s.imageW s.imageH (effectiveParams alg t m inv)) .quantise ∧
        ∃ v d, stepIn c { u with inputs := [] } = .next v ∧ FinishedAs s v (encode i) (fallbackTaken alg m) ∧
          OnlyMonoWritten s v ∧
          DecidesIn c (effectiveAlgorithm alg m) s.imageW (s.imageW * s.imageH) t.toNat s.luma1000 d ∧
          (∀ q, q < s.imageW * s.imageH → v.readByte .mono q = if xor (d q) inv then 0xFF#8 else 0x00#8) ∧
          UnchangedFrom s v .mono (s.imageW * s.imageH)
end

