-- ==== Sys2Proof/Laws/Encoding.lean ====
section
/-! SUPPORT. The fields of an assembled command word, and the word assembled again from its fields (R80). -/

namespace Sys2Proof

theorem commandWord_getLsbD (op alg : Nibble) (t m : Byte) (inv : Bool) (i : Nat) :
    (commandWord op alg t m inv).getLsbD i =
      if i < 1 then (BitVec.ofBool inv).getLsbD i
      else if i < 8 then false
      else if i < 16 then m.getLsbD (i - 8)
      else if i < 24 then t.getLsbD (i - 16)
      else if i < 28 then alg.getLsbD (i - 24)
      else op.getLsbD (i - 28) := by
  simp only [commandWord, BitVec.getLsbD_append, BitVec.getLsbD_zero]
  by_cases h1 : i < 1
  · simp only [if_pos h1]
  · simp only [if_neg h1]
    by_cases h8 : i < 8
    · simp only [if_pos h8, if_pos (show i - 1 < 7 by omega)]
    · simp only [if_neg h8, if_neg (show ¬ i - 1 < 7 by omega)]
      by_cases h16 : i < 16
      · simp only [if_pos h16, if_pos (show i - 1 - 7 < 8 by omega)]
        congr 1
      · simp only [if_neg h16, if_neg (show ¬ i - 1 - 7 < 8 by omega)]
        by_cases h24 : i < 24
        · simp only [if_pos h24, if_pos (show i - 1 - 7 - 8 < 8 by omega)]
          congr 1
        · simp only [if_neg h24, if_neg (show ¬ i - 1 - 7 - 8 < 8 by omega)]
          by_cases h28 : i < 28
          · simp only [if_pos h28, if_pos (show i - 1 - 7 - 8 - 8 < 4 by omega)]
            congr 1
          · simp only [if_neg h28, if_neg (show ¬ i - 1 - 7 - 8 - 8 < 4 by omega)]
            congr 1

@[simp] theorem opField_commandWord (op alg : Nibble) (t m : Byte) (inv : Bool) :
    opField (commandWord op alg t m inv) = op := by
  apply BitVec.eq_of_getLsbD_eq
  intro i hi
  simp only [opField, BitVec.getLsbD_extractLsb', commandWord_getLsbD, hi, decide_true, Bool.true_and]
  rw [if_neg (by omega), if_neg (by omega), if_neg (by omega), if_neg (by omega), if_neg (by omega)]
  congr 1
  omega

@[simp] theorem algField_commandWord (op alg : Nibble) (t m : Byte) (inv : Bool) :
    algField (commandWord op alg t m inv) = alg := by
  apply BitVec.eq_of_getLsbD_eq
  intro i hi
  simp only [algField, BitVec.getLsbD_extractLsb', commandWord_getLsbD, hi, decide_true, Bool.true_and]
  rw [if_neg (by omega), if_neg (by omega), if_neg (by omega), if_neg (by omega), if_pos (by omega)]
  congr 1
  omega

@[simp] theorem threshField_commandWord (op alg : Nibble) (t m : Byte) (inv : Bool) :
    threshField (commandWord op alg t m inv) = t := by
  apply BitVec.eq_of_getLsbD_eq
  intro i hi
  simp only [threshField, BitVec.getLsbD_extractLsb', commandWord_getLsbD, hi, decide_true, Bool.true_and]
  rw [if_neg (by omega), if_neg (by omega), if_neg (by omega), if_pos (by omega)]
  congr 1
  omega

@[simp] theorem msizeField_commandWord (op alg : Nibble) (t m : Byte) (inv : Bool) :
    msizeField (commandWord op alg t m inv) = m := by
  apply BitVec.eq_of_getLsbD_eq
  intro i hi
  simp only [msizeField, BitVec.getLsbD_extractLsb', commandWord_getLsbD, hi, decide_true, Bool.true_and]
  rw [if_neg (by omega), if_neg (by omega), if_pos (by omega)]
  congr 1
  omega

@[simp] theorem reservedField_commandWord (op alg : Nibble) (t m : Byte) (inv : Bool) :
    reservedField (commandWord op alg t m inv) = 0#7 := by
  apply BitVec.eq_of_getLsbD_eq
  intro i hi
  simp only [reservedField, BitVec.getLsbD_extractLsb', commandWord_getLsbD, hi, decide_true, Bool.true_and]
  rw [if_neg (by omega), if_pos (by omega), BitVec.getLsbD_zero]

@[simp] theorem invertField_commandWord (op alg : Nibble) (t m : Byte) (inv : Bool) :
    invertField (commandWord op alg t m inv) = inv := by
  rw [invertField, commandWord_getLsbD, if_pos (by omega)]
  cases inv <;> rfl

/-- A word whose reserved bits are 0 is assembled from its own fields. -/
theorem commandWord_fields (w : Word) (h : reservedField w = 0#7) :
    commandWord (opField w) (algField w) (threshField w) (msizeField w) (invertField w) = w := by
  apply BitVec.eq_of_getLsbD_eq
  intro i hi
  rw [commandWord_getLsbD]
  by_cases h1 : i < 1
  · obtain rfl : i = 0 := by omega
    rw [if_pos h1, invertField]
    cases w.getLsbD 0 <;> rfl
  rw [if_neg h1]
  by_cases h8 : i < 8
  · rw [if_pos h8]
    have e : (reservedField w).getLsbD (i - 1) = w.getLsbD i := by
      simp only [reservedField, BitVec.getLsbD_extractLsb']
      rw [decide_eq_true (show i - 1 < 7 by omega), Bool.true_and]
      congr 1
      omega
    rw [← e, h, BitVec.getLsbD_zero]
  rw [if_neg h8]
  by_cases h16 : i < 16
  · rw [if_pos h16]
    simp only [msizeField, BitVec.getLsbD_extractLsb']
    rw [decide_eq_true (show i - 8 < 8 by omega), Bool.true_and]
    congr 1
    omega
  rw [if_neg h16]
  by_cases h24 : i < 24
  · rw [if_pos h24]
    simp only [threshField, BitVec.getLsbD_extractLsb']
    rw [decide_eq_true (show i - 16 < 8 by omega), Bool.true_and]
    congr 1
    omega
  rw [if_neg h24]
  by_cases h28 : i < 28
  · rw [if_pos h28]
    simp only [algField, BitVec.getLsbD_extractLsb']
    rw [decide_eq_true (show i - 24 < 4 by omega), Bool.true_and]
    congr 1
    omega
  · rw [if_neg h28]
    simp only [opField, BitVec.getLsbD_extractLsb']
    rw [decide_eq_true (show i - 28 < 4 by omega), Bool.true_and]
    congr 1
    omega

end Sys2Proof
end

