-- ==== Sys2Proof/Laws/Memory.lean ====
section
/-! SUPPORT. The laws of one buffer: a read after a write gives what was written, a write leaves every other index alone, one
pass over the list reads what single reads would, and writes keep the canonical form. They hold of every list. -/

namespace Sys2Proof.Machine

@[simp] theorem Memory.seek_nil (a : Nat) : Memory.seek [] a = [] := rfl

@[simp] theorem Memory.headAt_nil (a : Nat) : Memory.headAt [] a = none := rfl

theorem Memory.seek_cons (cell : Host.Cell) (m : Memory) (a : Nat) :
    Memory.seek (cell :: m) a = if cell.1 < a then Memory.seek m a else cell :: m := by
  by_cases h : cell.1 < a <;> simp [Memory.seek, h]

theorem Memory.seek_append_of_lt (m l : Memory) (a : Nat) (h : ∀ cell ∈ m, cell.1 < a) :
    Memory.seek (m ++ l) a = Memory.seek l a := by
  induction m with
  | nil => rfl
  | cons cell m ih =>
    simp only [List.mem_cons, forall_eq_or_imp] at h
    simp [Memory.seek_cons, h.1, ih h.2]

theorem Memory.seek_seek (m : Memory) {a b : Nat} (h : a ≤ b) : (m.seek a).seek b = m.seek b := by
  induction m with
  | nil => rfl
  | cons cell m ih =>
    by_cases ha : cell.1 < a
    · simp [Memory.seek_cons, ha, Nat.lt_of_lt_of_le ha h, ih]
    · simp [Memory.seek_cons, ha]

@[simp] theorem Memory.cells_length (a : Nat) (vs : List Byte) : (Memory.cells a vs).length = vs.length := by
  induction vs generalizing a with
  | nil => rfl
  | cons v vs ih => simp [Memory.cells, ih]

theorem Memory.mem_cells {a : Nat} {vs : List Byte} {cell : Host.Cell} (h : cell ∈ Memory.cells a vs) :
    a ≤ cell.1 ∧ cell.1 < a + vs.length := by
  induction vs generalizing a with
  | nil => simp [Memory.cells] at h
  | cons v vs ih =>
    simp only [Memory.cells, List.mem_cons] at h
    rcases h with rfl | h
    · simp
    · have := ih h
      simp only [List.length_cons]
      omega

theorem Memory.seek_head_ge (m : Memory) (a : Nat) : ∀ cell ∈ (m.seek a).head?, a ≤ cell.1 := by
  induction m with
  | nil => simp
  | cons cell m ih =>
    by_cases h : cell.1 < a
    · simpa [Memory.seek_cons, h] using ih
    · simp only [Memory.seek_cons, h, if_false, List.head?_cons, Option.mem_some_iff, forall_eq']
      omega

theorem Memory.lookup_eq_none_of_head {l : Memory} {a : Nat} (h : ∀ cell ∈ l.head?, a < cell.1) :
    Memory.lookup l a = none := by
  cases l with
  | nil => rfl
  | cons cell l =>
    simp only [List.head?_cons, Option.mem_some_iff, forall_eq'] at h
    have h1 : ¬ cell.1 < a := by omega
    have h2 : cell.1 ≠ a := by omega
    simp [Memory.lookup, Memory.seek_cons, h1, Memory.headAt, h2]

theorem Memory.lookup_seek (m : Memory) {a b : Nat} (h : b ≤ a) : Memory.lookup (m.seek b) a = Memory.lookup m a := by
  simp [Memory.lookup, Memory.seek_seek m h]

/-- A search that starts inside a run of stored bytes ends there. -/
theorem Memory.lookup_cells_append (b : Nat) (vs : List Byte) (l : Memory) {a : Nat} (hb : b ≤ a)
    (ha : a < b + vs.length) : Memory.lookup (Memory.cells b vs ++ l) a = vs[a - b]? := by
  induction vs generalizing b with
  | nil => simp at ha; omega
  | cons v vs ih =>
    simp only [Memory.cells, List.cons_append]
    by_cases h : b = a
    · subst h
      simp [Memory.lookup, Memory.seek_cons, Memory.headAt]
    · have hlt : b < a := by omega
      have := ih (b + 1) (by omega) (by simp at ha; omega)
      have e : a - b = (a - (b + 1)) + 1 := by omega
      simp only [Memory.lookup, Memory.seek_cons, hlt, if_true] at this ⊢
      rw [this, e, List.getElem?_cons_succ]

theorem Memory.lookup_cells_append_of_le (b : Nat) (vs : List Byte) (l : Memory) {a : Nat} (h : b + vs.length ≤ a) :
    Memory.lookup (Memory.cells b vs ++ l) a = Memory.lookup l a := by
  have hm : ∀ cell ∈ Memory.cells b vs, cell.1 < a := fun cell hc => by
    have := Memory.mem_cells hc
    omega
  simp only [Memory.lookup, Memory.seek_append_of_lt _ _ _ hm]

theorem Memory.takeWhile_lt (m : Memory) (b : Nat) :
    ∀ cell ∈ m.takeWhile (fun cell => decide (cell.1 < b)), cell.1 < b := fun cell h => by
  simpa using List.mem_takeWhile_imp h

/-- Reading after a write: the stored bytes inside the written range, the old contents outside it. -/
theorem Memory.lookup_writeRange (m : Memory) (b : Nat) (vs : List Byte) (a : Nat) :
    (m.writeRange b vs).lookup a = if b ≤ a ∧ a < b + vs.length then vs[a - b]? else m.lookup a := by
  have hpre := Memory.takeWhile_lt m b
  by_cases hin : b ≤ a ∧ a < b + vs.length
  · rw [if_pos hin, ← Memory.lookup_cells_append b vs (m.seek (b + vs.length)) hin.1 hin.2]
    simp only [Memory.writeRange, List.append_assoc, Memory.lookup]
    rw [Memory.seek_append_of_lt _ _ _ fun cell hc => Nat.lt_of_lt_of_le (hpre cell hc) hin.1]
  · rw [if_neg hin]
    by_cases hlt : a < b
    · cases vs with
      | nil =>
        have : m.writeRange b [] = m := by
          simp only [Memory.writeRange, Memory.cells, Memory.seek, List.length_nil, Nat.add_zero, List.append_nil]
          exact List.takeWhile_append_dropWhile
        rw [this]
      | cons v vs =>
        simp only [Memory.writeRange, List.append_assoc]
        -- the written cells and everything behind them lie above `a`
        have hnone : Memory.lookup (Memory.cells b (v :: vs) ++ m.seek (b + (v :: vs).length)) a = none := by
          apply Memory.lookup_eq_none_of_head
          simp [Memory.cells, hlt]
        clear hin
        induction m with
        | nil => simpa [Memory.lookup] using hnone
        | cons cell m ih =>
          by_cases hb : cell.1 < b
          · have hb' : cell.1 < b + (v :: vs).length := by omega
            simp only [List.takeWhile_cons, hb, decide_true, if_true, List.cons_append, Memory.lookup,
              Memory.seek_cons, hb'] at ih hnone ⊢
            by_cases ha : cell.1 < a
            · simpa [ha] using ih (Memory.takeWhile_lt m b) hnone
            · simp [ha, Memory.headAt]
          · have ha : ¬ cell.1 < a := by omega
            have hne : cell.1 ≠ a := by omega
            simp only [List.takeWhile_cons, hb, decide_false, Bool.false_eq_true, if_false, List.nil_append]
            rw [hnone]
            simp [Memory.lookup, Memory.seek_cons, ha, Memory.headAt, hne]
    · have hge : b + vs.length ≤ a := by omega
      simp only [Memory.writeRange, List.append_assoc]
      rw [show Memory.lookup (m.takeWhile (fun cell => decide (cell.1 < b)) ++ (Memory.cells b vs ++
          m.seek (b + vs.length))) a = Memory.lookup (Memory.cells b vs ++ m.seek (b + vs.length)) a by
        simp only [Memory.lookup]
        rw [Memory.seek_append_of_lt _ _ _ fun cell hc => Nat.lt_of_lt_of_le (hpre cell hc) (by omega)]]
      rw [Memory.lookup_cells_append_of_le b vs _ hge, Memory.lookup_seek m hge]

@[simp] theorem Memory.readRange_length (f : Nat → Byte) (m : Memory) (a n : Nat) :
    (m.readRange f a n).length = n := by
  induction n generalizing m a with
  | zero => rfl
  | succ n ih => simp [Memory.readRange, ih]

/-- One pass over the list reads at every index what a single read there gives. -/
theorem Memory.readRange_getElem? (f : Nat → Byte) (m : Memory) (a n i : Nat) (h : i < n) :
    (m.readRange f a n)[i]? = some ((m.lookup (a + i)).getD (f (a + i))) := by
  induction n generalizing m a i with
  | zero => omega
  | succ n ih =>
    cases i with
    | zero => rfl
    | succ i =>
      rw [Memory.readRange, List.getElem?_cons_succ, ih _ _ _ (by omega), Memory.lookup_seek _ (by omega)]
      rw [show a + 1 + i = a + (i + 1) by omega]

/-! ### The canonical form -/

theorem Memory.wfFrom_mono {lo lo' : Nat} {m : Memory} (h : Memory.wfFrom lo m = true) (hl : lo' ≤ lo) :
    Memory.wfFrom lo' m = true := by
  cases m with
  | nil => rfl
  | cons cell m =>
    simp only [Memory.wfFrom, Bool.and_eq_true, decide_eq_true_eq] at h ⊢
    exact ⟨by omega, h.2⟩

theorem Memory.wfFrom_seek (lo a : Nat) (m : Memory) (h : Memory.wfFrom lo m = true) :
    Memory.wfFrom a (m.seek a) = true := by
  induction m generalizing lo with
  | nil => rfl
  | cons cell m ih =>
    simp only [Memory.wfFrom, Bool.and_eq_true, decide_eq_true_eq] at h
    by_cases hc : cell.1 < a
    · simpa [Memory.seek_cons, hc] using ih _ h.2
    · simp only [Memory.seek_cons, hc, if_false, Memory.wfFrom, Bool.and_eq_true, decide_eq_true_eq]
      exact ⟨by omega, h.2⟩

theorem Memory.wfFrom_cells_append (a : Nat) (vs : List Byte) (l : Memory)
    (h : Memory.wfFrom (a + vs.length) l = true) : Memory.wfFrom a (Memory.cells a vs ++ l) = true := by
  induction vs generalizing a with
  | nil => simpa [Memory.cells] using h
  | cons v vs ih =>
    simp only [Memory.cells, List.cons_append, Memory.wfFrom, Bool.and_eq_true, decide_eq_true_eq]
    refine ⟨Nat.le_refl _, ih _ ?_⟩
    rw [show a + 1 + vs.length = a + (v :: vs).length by simp; omega]
    exact h

theorem Memory.wfFrom_takeWhile_append (lo b : Nat) (m l : Memory) (hlo : lo ≤ b) (hm : Memory.wfFrom lo m = true)
    (hl : Memory.wfFrom b l = true) :
    Memory.wfFrom lo (m.takeWhile (fun cell => decide (cell.1 < b)) ++ l) = true := by
  induction m generalizing lo with
  | nil => simpa using Memory.wfFrom_mono hl hlo
  | cons cell m ih =>
    simp only [Memory.wfFrom, Bool.and_eq_true, decide_eq_true_eq] at hm
    by_cases hc : cell.1 < b
    · simp only [List.takeWhile_cons, hc, decide_true, if_true, List.cons_append, Memory.wfFrom, Bool.and_eq_true,
        decide_eq_true_eq]
      exact ⟨hm.1, ih _ (by omega) hm.2⟩
    · simpa [List.takeWhile_cons, hc] using Memory.wfFrom_mono hl hlo

/-- A write keeps the canonical form. -/
theorem Memory.writeRange_wf {m : Memory} (h : m.wf = true) (a : Nat) (vs : List Byte) :
    (m.writeRange a vs).wf = true := by
  rw [Memory.wf, Memory.writeRange, List.append_assoc]
  exact Memory.wfFrom_takeWhile_append 0 a m _ (Nat.zero_le _) h
    (Memory.wfFrom_cells_append a vs _ (Memory.wfFrom_seek 0 _ m h))

/-- A write inside the buffer keeps every listed index inside the buffer. -/
theorem Memory.writeRange_below {m : Memory} {cap : Nat} (h : m.below cap = true) (a : Nat) (vs : List Byte)
    (hv : a + vs.length ≤ cap) : (m.writeRange a vs).below cap = true := by
  simp only [Memory.below, List.all_eq_true, decide_eq_true_eq] at h ⊢
  intro cell hc
  simp only [Memory.writeRange, List.mem_append] at hc
  rcases hc with (hc | hc) | hc
  · exact h cell ((List.takeWhile_sublist _).subset hc)
  · have := Memory.mem_cells hc
    omega
  · exact h cell ((List.dropWhile_sublist _).subset hc)

end Sys2Proof.Machine
end

