-- ==== Sys2Proof/Laws/State.lean ====
section
/-! SUPPORT. One lemma per field per update of the state, and what a byte reads as after a write of bytes. -/

namespace Sys2Proof.Machine

/-! ### One buffer replaced -/

@[simp] theorem State.setBuffer_cmd (s : State) (sp : Space) (m : Memory) : (s.setBuffer sp m).cmd = s.cmd := by cases sp <;> rfl
@[simp] theorem State.setBuffer_status (s : State) (sp : Space) (m : Memory) : (s.setBuffer sp m).status = s.status := by cases sp <;> rfl
@[simp] theorem State.setBuffer_width (s : State) (sp : Space) (m : Memory) : (s.setBuffer sp m).width = s.width := by cases sp <;> rfl
@[simp] theorem State.setBuffer_height (s : State) (sp : Space) (m : Memory) : (s.setBuffer sp m).height = s.height := by cases sp <;> rfl
@[simp] theorem State.setBuffer_plen (s : State) (sp : Space) (m : Memory) : (s.setBuffer sp m).plen = s.plen := by cases sp <;> rfl
@[simp] theorem State.setBuffer_flen (s : State) (sp : Space) (m : Memory) : (s.setBuffer sp m).flen = s.flen := by cases sp <;> rfl
@[simp] theorem State.setBuffer_seq (s : State) (sp : Space) (m : Memory) : (s.setBuffer sp m).seq = s.seq := by cases sp <;> rfl
@[simp] theorem State.setBuffer_latch (s : State) (sp : Space) (m : Memory) : (s.setBuffer sp m).latch = s.latch := by cases sp <;> rfl
@[simp] theorem State.setBuffer_work (s : State) (sp : Space) (m : Memory) : (s.setBuffer sp m).work = s.work := by cases sp <;> rfl
@[simp] theorem State.setBuffer_inputs (s : State) (sp : Space) (m : Memory) : (s.setBuffer sp m).inputs = s.inputs := by cases sp <;> rfl
@[simp] theorem State.setBuffer_rdata (s : State) (sp : Space) (m : Memory) : (s.setBuffer sp m).rdata = s.rdata := by cases sp <;> rfl
@[simp] theorem State.setBuffer_epoch (s : State) (sp : Space) (m : Memory) : (s.setBuffer sp m).epoch = s.epoch := by cases sp <;> rfl
@[simp] theorem State.setBuffer_draws (s : State) (sp : Space) (m : Memory) : (s.setBuffer sp m).draws = s.draws := by cases sp <;> rfl

@[simp] theorem State.buffer_pix (s : State) : s.buffer .pix = s.pix := rfl
@[simp] theorem State.buffer_mono (s : State) : s.buffer .mono = s.mono := rfl
@[simp] theorem State.buffer_payload (s : State) : s.buffer .payload = s.payload := rfl
@[simp] theorem State.buffer_frame (s : State) : s.buffer .frame = s.frame := rfl

@[simp] theorem State.setBuffer_buffer_same (s : State) (sp : Space) (m : Memory) : (s.setBuffer sp m).buffer sp = m := by
  cases sp <;> rfl

/-- No access to one space reaches another (R50). -/
theorem State.setBuffer_buffer_other (s : State) {sp sp' : Space} (m : Memory) (h : sp' ≠ sp) :
    (s.setBuffer sp m).buffer sp' = s.buffer sp' := by
  cases sp <;> cases sp' <;> first | rfl | exact absurd rfl h

/-! ### Bytes written -/

@[simp] theorem State.writeBytes_cmd (s : State) (sp : Space) (a : Nat) (vs : List Byte) : (s.writeBytes sp a vs).cmd = s.cmd := by cases sp <;> rfl
@[simp] theorem State.writeBytes_status (s : State) (sp : Space) (a : Nat) (vs : List Byte) : (s.writeBytes sp a vs).status = s.status := by cases sp <;> rfl
@[simp] theorem State.writeBytes_width (s : State) (sp : Space) (a : Nat) (vs : List Byte) : (s.writeBytes sp a vs).width = s.width := by cases sp <;> rfl
@[simp] theorem State.writeBytes_height (s : State) (sp : Space) (a : Nat) (vs : List Byte) : (s.writeBytes sp a vs).height = s.height := by cases sp <;> rfl
@[simp] theorem State.writeBytes_plen (s : State) (sp : Space) (a : Nat) (vs : List Byte) : (s.writeBytes sp a vs).plen = s.plen := by cases sp <;> rfl
@[simp] theorem State.writeBytes_flen (s : State) (sp : Space) (a : Nat) (vs : List Byte) : (s.writeBytes sp a vs).flen = s.flen := by cases sp <;> rfl
@[simp] theorem State.writeBytes_seq (s : State) (sp : Space) (a : Nat) (vs : List Byte) : (s.writeBytes sp a vs).seq = s.seq := by cases sp <;> rfl
@[simp] theorem State.writeBytes_latch (s : State) (sp : Space) (a : Nat) (vs : List Byte) : (s.writeBytes sp a vs).latch = s.latch := by cases sp <;> rfl
@[simp] theorem State.writeBytes_work (s : State) (sp : Space) (a : Nat) (vs : List Byte) : (s.writeBytes sp a vs).work = s.work := by cases sp <;> rfl
@[simp] theorem State.writeBytes_inputs (s : State) (sp : Space) (a : Nat) (vs : List Byte) : (s.writeBytes sp a vs).inputs = s.inputs := by cases sp <;> rfl
@[simp] theorem State.writeBytes_rdata (s : State) (sp : Space) (a : Nat) (vs : List Byte) : (s.writeBytes sp a vs).rdata = s.rdata := by cases sp <;> rfl
@[simp] theorem State.writeBytes_epoch (s : State) (sp : Space) (a : Nat) (vs : List Byte) : (s.writeBytes sp a vs).epoch = s.epoch := by cases sp <;> rfl
@[simp] theorem State.writeBytes_draws (s : State) (sp : Space) (a : Nat) (vs : List Byte) : (s.writeBytes sp a vs).draws = s.draws := by cases sp <;> rfl
@[simp] theorem State.writeBytes_pix_pix (s : State) (a : Nat) (vs : List Byte) : (s.writeBytes .pix a vs).pix = s.pix.writeRange a vs := rfl
@[simp] theorem State.writeBytes_mono_pix (s : State) (a : Nat) (vs : List Byte) : (s.writeBytes .mono a vs).pix = s.pix := rfl
@[simp] theorem State.writeBytes_payload_pix (s : State) (a : Nat) (vs : List Byte) : (s.writeBytes .payload a vs).pix = s.pix := rfl
@[simp] theorem State.writeBytes_frame_pix (s : State) (a : Nat) (vs : List Byte) : (s.writeBytes .frame a vs).pix = s.pix := rfl
@[simp] theorem State.writeBytes_pix_mono (s : State) (a : Nat) (vs : List Byte) : (s.writeBytes .pix a vs).mono = s.mono := rfl
@[simp] theorem State.writeBytes_mono_mono (s : State) (a : Nat) (vs : List Byte) : (s.writeBytes .mono a vs).mono = s.mono.writeRange a vs := rfl
@[simp] theorem State.writeBytes_payload_mono (s : State) (a : Nat) (vs : List Byte) : (s.writeBytes .payload a vs).mono = s.mono := rfl
@[simp] theorem State.writeBytes_frame_mono (s : State) (a : Nat) (vs : List Byte) : (s.writeBytes .frame a vs).mono = s.mono := rfl
@[simp] theorem State.writeBytes_pix_payload (s : State) (a : Nat) (vs : List Byte) : (s.writeBytes .pix a vs).payload = s.payload := rfl
@[simp] theorem State.writeBytes_mono_payload (s : State) (a : Nat) (vs : List Byte) : (s.writeBytes .mono a vs).payload = s.payload := rfl
@[simp] theorem State.writeBytes_payload_payload (s : State) (a : Nat) (vs : List Byte) : (s.writeBytes .payload a vs).payload = s.payload.writeRange a vs := rfl
@[simp] theorem State.writeBytes_frame_payload (s : State) (a : Nat) (vs : List Byte) : (s.writeBytes .frame a vs).payload = s.payload := rfl
@[simp] theorem State.writeBytes_pix_frame (s : State) (a : Nat) (vs : List Byte) : (s.writeBytes .pix a vs).frame = s.frame := rfl
@[simp] theorem State.writeBytes_mono_frame (s : State) (a : Nat) (vs : List Byte) : (s.writeBytes .mono a vs).frame = s.frame := rfl
@[simp] theorem State.writeBytes_payload_frame (s : State) (a : Nat) (vs : List Byte) : (s.writeBytes .payload a vs).frame = s.frame := rfl
@[simp] theorem State.writeBytes_frame_frame (s : State) (a : Nat) (vs : List Byte) : (s.writeBytes .frame a vs).frame = s.frame.writeRange a vs := rfl

/-- A byte reads the same in two states with the same buffer and the same reset. -/
theorem State.readByte_congr {s t : State} {sp : Space} (h : t.buffer sp = s.buffer sp) (he : t.epoch = s.epoch) (a : Nat) :
    t.readByte sp a = s.readByte sp a := by
  simp only [State.readByte, h, he]

theorem State.readBytes_congr {s t : State} {sp : Space} (h : t.buffer sp = s.buffer sp) (he : t.epoch = s.epoch)
    (a n : Nat) : t.readBytes sp a n = s.readBytes sp a n := by
  simp only [State.readBytes, h, he]

/-- What a byte of the written space reads as after `vs` is stored from `b` upward. -/
theorem State.readByte_writeBytes_same (s : State) (sp : Space) (b : Nat) (vs : List Byte) (a : Nat) :
    (s.writeBytes sp b vs).readByte sp a
      = if b ≤ a ∧ a < b + vs.length then (vs[a - b]?).getD (Config.resetByte s.epoch sp a) else s.readByte sp a := by
  simp only [State.readByte, State.writeBytes, State.setBuffer_buffer_same, State.setBuffer_epoch,
    Memory.lookup_writeRange]
  split <;> rfl

/-- A write to one space leaves every byte of the others as it was. -/
theorem State.readByte_writeBytes_other (s : State) {sp sp' : Space} (b : Nat) (vs : List Byte) (a : Nat) (h : sp' ≠ sp) :
    (s.writeBytes sp b vs).readByte sp' a = s.readByte sp' a :=
  State.readByte_congr (State.setBuffer_buffer_other s _ h) (by simp) a

/-- Inside the written range the stored byte is read. -/
theorem State.readByte_writeBytes_in (s : State) (sp : Space) (b : Nat) (vs : List Byte) (i : Nat) (v : Byte)
    (h : vs[i]? = some v) : (s.writeBytes sp b vs).readByte sp (b + i) = v := by
  have hi : i < vs.length := (List.getElem?_eq_some_iff.mp h).1
  rw [State.readByte_writeBytes_same, if_pos ⟨by omega, by omega⟩, Nat.add_sub_cancel_left, h]
  rfl

/-- Outside the written range the old byte is read. -/
theorem State.readByte_writeBytes_out (s : State) (sp : Space) (b : Nat) (vs : List Byte) (a : Nat)
    (h : a < b ∨ b + vs.length ≤ a) : (s.writeBytes sp b vs).readByte sp a = s.readByte sp a := by
  rw [State.readByte_writeBytes_same, if_neg (by omega)]

@[simp] theorem State.readBytes_length (s : State) (sp : Space) (a n : Nat) : (s.readBytes sp a n).length = n :=
  Memory.readRange_length _ _ _ _

/-- A block read gives at every place the byte a single read gives. -/
theorem State.readBytes_getElem? (s : State) (sp : Space) (a n i : Nat) (h : i < n) :
    (s.readBytes sp a n)[i]? = some (s.readByte sp (a + i)) :=
  Memory.readRange_getElem? _ _ _ _ _ h

/-! ### Rejection and acceptance -/

@[simp] theorem reject_cmd (word : Word) (e : Cause) (s : State) : (reject word e s).cmd = word := rfl
@[simp] theorem reject_status (word : Word) (e : Cause) (s : State) : (reject word e s).status = Status.rejected e := rfl
@[simp] theorem reject_width (word : Word) (e : Cause) (s : State) : (reject word e s).width = s.width := rfl
@[simp] theorem reject_height (word : Word) (e : Cause) (s : State) : (reject word e s).height = s.height := rfl
@[simp] theorem reject_plen (word : Word) (e : Cause) (s : State) : (reject word e s).plen = s.plen := rfl
@[simp] theorem reject_flen (word : Word) (e : Cause) (s : State) : (reject word e s).flen = s.flen := rfl
@[simp] theorem reject_pix (word : Word) (e : Cause) (s : State) : (reject word e s).pix = s.pix := rfl
@[simp] theorem reject_mono (word : Word) (e : Cause) (s : State) : (reject word e s).mono = s.mono := rfl
@[simp] theorem reject_payload (word : Word) (e : Cause) (s : State) : (reject word e s).payload = s.payload := rfl
@[simp] theorem reject_frame (word : Word) (e : Cause) (s : State) : (reject word e s).frame = s.frame := rfl
@[simp] theorem reject_seq (word : Word) (e : Cause) (s : State) : (reject word e s).seq = s.seq := rfl
@[simp] theorem reject_latch (word : Word) (e : Cause) (s : State) : (reject word e s).latch = s.latch := rfl
@[simp] theorem reject_work (word : Word) (e : Cause) (s : State) : (reject word e s).work = s.work := rfl
@[simp] theorem reject_inputs (word : Word) (e : Cause) (s : State) : (reject word e s).inputs = s.inputs := rfl
@[simp] theorem reject_rdata (word : Word) (e : Cause) (s : State) : (reject word e s).rdata = s.rdata := rfl
@[simp] theorem reject_epoch (word : Word) (e : Cause) (s : State) : (reject word e s).epoch = s.epoch := rfl
@[simp] theorem reject_draws (word : Word) (e : Cause) (s : State) : (reject word e s).draws = s.draws := rfl

@[simp] theorem accept_cmd (word : Word) (r : Request) (s : State) : (accept word r s).cmd = word := rfl
@[simp] theorem accept_status (word : Word) (r : Request) (s : State) : (accept word r s).status = Status.accepted r.unsup := rfl
@[simp] theorem accept_width (word : Word) (r : Request) (s : State) : (accept word r s).width = s.width := rfl
@[simp] theorem accept_height (word : Word) (r : Request) (s : State) : (accept word r s).height = s.height := rfl
@[simp] theorem accept_plen (word : Word) (r : Request) (s : State) : (accept word r s).plen = s.plen := rfl
@[simp] theorem accept_flen (word : Word) (r : Request) (s : State) : (accept word r s).flen = s.flen := rfl
@[simp] theorem accept_pix (word : Word) (r : Request) (s : State) : (accept word r s).pix = s.pix := rfl
@[simp] theorem accept_mono (word : Word) (r : Request) (s : State) : (accept word r s).mono = s.mono := rfl
@[simp] theorem accept_payload (word : Word) (r : Request) (s : State) : (accept word r s).payload = s.payload := rfl
@[simp] theorem accept_frame (word : Word) (r : Request) (s : State) : (accept word r s).frame = s.frame := rfl
@[simp] theorem accept_seq (word : Word) (r : Request) (s : State) : (accept word r s).seq = { phase := (r.job s.imageW s.imageH).firstPhase, k := 0 } := rfl
@[simp] theorem accept_latch (word : Word) (r : Request) (s : State) : (accept word r s).latch = some (r.job s.imageW s.imageH) := rfl
@[simp] theorem accept_work (word : Word) (r : Request) (s : State) : (accept word r s).work = initialWork (r.job s.imageW s.imageH) s := rfl
@[simp] theorem accept_inputs (word : Word) (r : Request) (s : State) : (accept word r s).inputs = s.inputs := rfl
@[simp] theorem accept_rdata (word : Word) (r : Request) (s : State) : (accept word r s).rdata = s.rdata := rfl
@[simp] theorem accept_epoch (word : Word) (r : Request) (s : State) : (accept word r s).epoch = s.epoch := rfl
@[simp] theorem accept_draws (word : Word) (r : Request) (s : State) : (accept word r s).draws = s.draws := rfl

/-! ### The stages and the completion step -/

@[simp] theorem quantStage_cmd (c : Config) (w h : Nat) (p : QuantParams) (s : State) : (quantStage c w h p s).cmd = s.cmd := rfl
@[simp] theorem quantStage_status (c : Config) (w h : Nat) (p : QuantParams) (s : State) : (quantStage c w h p s).status = s.status := rfl
@[simp] theorem quantStage_width (c : Config) (w h : Nat) (p : QuantParams) (s : State) : (quantStage c w h p s).width = s.width := rfl
@[simp] theorem quantStage_height (c : Config) (w h : Nat) (p : QuantParams) (s : State) : (quantStage c w h p s).height = s.height := rfl
@[simp] theorem quantStage_plen (c : Config) (w h : Nat) (p : QuantParams) (s : State) : (quantStage c w h p s).plen = s.plen := rfl
@[simp] theorem quantStage_flen (c : Config) (w h : Nat) (p : QuantParams) (s : State) : (quantStage c w h p s).flen = s.flen := rfl
@[simp] theorem quantStage_pix (c : Config) (w h : Nat) (p : QuantParams) (s : State) : (quantStage c w h p s).pix = s.pix := rfl
@[simp] theorem quantStage_mono (c : Config) (w h : Nat) (p : QuantParams) (s : State) : (quantStage c w h p s).mono = s.mono.writeRange 0 ((quantDecisions c w h p (s.lumas (w * h))).map (outByte p.inv)) := rfl
@[simp] theorem quantStage_payload (c : Config) (w h : Nat) (p : QuantParams) (s : State) : (quantStage c w h p s).payload = s.payload := rfl
@[simp] theorem quantStage_frame (c : Config) (w h : Nat) (p : QuantParams) (s : State) : (quantStage c w h p s).frame = s.frame := rfl
@[simp] theorem quantStage_seq (c : Config) (w h : Nat) (p : QuantParams) (s : State) : (quantStage c w h p s).seq = s.seq := rfl
@[simp] theorem quantStage_latch (c : Config) (w h : Nat) (p : QuantParams) (s : State) : (quantStage c w h p s).latch = s.latch := rfl
@[simp] theorem quantStage_work (c : Config) (w h : Nat) (p : QuantParams) (s : State) : (quantStage c w h p s).work = s.work := rfl
@[simp] theorem quantStage_inputs (c : Config) (w h : Nat) (p : QuantParams) (s : State) : (quantStage c w h p s).inputs = s.inputs := rfl
@[simp] theorem quantStage_rdata (c : Config) (w h : Nat) (p : QuantParams) (s : State) : (quantStage c w h p s).rdata = s.rdata := rfl
@[simp] theorem quantStage_epoch (c : Config) (w h : Nat) (p : QuantParams) (s : State) : (quantStage c w h p s).epoch = s.epoch := rfl
@[simp] theorem quantStage_draws (c : Config) (w h : Nat) (p : QuantParams) (s : State) : (quantStage c w h p s).draws = s.draws := rfl

@[simp] theorem packStage_cmd (w h : Nat) (s : State) : (packStage w h s).cmd = s.cmd := rfl
@[simp] theorem packStage_status (w h : Nat) (s : State) : (packStage w h s).status = s.status := rfl
@[simp] theorem packStage_width (w h : Nat) (s : State) : (packStage w h s).width = s.width := rfl
@[simp] theorem packStage_height (w h : Nat) (s : State) : (packStage w h s).height = s.height := rfl
@[simp] theorem packStage_plen (w h : Nat) (s : State) : (packStage w h s).plen = BitVec.ofNat 32 (packedLen (w * h)) := rfl
@[simp] theorem packStage_flen (w h : Nat) (s : State) : (packStage w h s).flen = s.flen := rfl
@[simp] theorem packStage_pix (w h : Nat) (s : State) : (packStage w h s).pix = s.pix := rfl
@[simp] theorem packStage_mono (w h : Nat) (s : State) : (packStage w h s).mono = s.mono := rfl
@[simp] theorem packStage_payload (w h : Nat) (s : State) : (packStage w h s).payload = s.payload.writeRange 0 (packedBytes w h (s.readBytes .mono 0 (w * h))) := rfl
@[simp] theorem packStage_frame (w h : Nat) (s : State) : (packStage w h s).frame = s.frame := rfl
@[simp] theorem packStage_seq (w h : Nat) (s : State) : (packStage w h s).seq = s.seq := rfl
@[simp] theorem packStage_latch (w h : Nat) (s : State) : (packStage w h s).latch = s.latch := rfl
@[simp] theorem packStage_work (w h : Nat) (s : State) : (packStage w h s).work = s.work := rfl
@[simp] theorem packStage_inputs (w h : Nat) (s : State) : (packStage w h s).inputs = s.inputs := rfl
@[simp] theorem packStage_rdata (w h : Nat) (s : State) : (packStage w h s).rdata = s.rdata := rfl
@[simp] theorem packStage_epoch (w h : Nat) (s : State) : (packStage w h s).epoch = s.epoch := rfl
@[simp] theorem packStage_draws (w h : Nat) (s : State) : (packStage w h s).draws = s.draws := rfl

@[simp] theorem frameStage_cmd (s : State) : (frameStage s).cmd = s.cmd := rfl
@[simp] theorem frameStage_status (s : State) : (frameStage s).status = s.status := rfl
@[simp] theorem frameStage_width (s : State) : (frameStage s).width = s.width := rfl
@[simp] theorem frameStage_height (s : State) : (frameStage s).height = s.height := rfl
@[simp] theorem frameStage_plen (s : State) : (frameStage s).plen = s.plen := rfl
@[simp] theorem frameStage_flen (s : State) : (frameStage s).flen = BitVec.ofNat 32 frameLen := rfl
@[simp] theorem frameStage_pix (s : State) : (frameStage s).pix = s.pix := rfl
@[simp] theorem frameStage_mono (s : State) : (frameStage s).mono = s.mono := rfl
@[simp] theorem frameStage_payload (s : State) : (frameStage s).payload = s.payload := rfl
@[simp] theorem frameStage_frame (s : State) : (frameStage s).frame = s.frame.writeRange 0 (frameBytes (s.readBytes .payload 0 payloadLen)) := rfl
@[simp] theorem frameStage_seq (s : State) : (frameStage s).seq = s.seq := rfl
@[simp] theorem frameStage_latch (s : State) : (frameStage s).latch = s.latch := rfl
@[simp] theorem frameStage_work (s : State) : (frameStage s).work = s.work := rfl
@[simp] theorem frameStage_inputs (s : State) : (frameStage s).inputs = s.inputs := rfl
@[simp] theorem frameStage_rdata (s : State) : (frameStage s).rdata = s.rdata := rfl
@[simp] theorem frameStage_epoch (s : State) : (frameStage s).epoch = s.epoch := rfl
@[simp] theorem frameStage_draws (s : State) : (frameStage s).draws = s.draws := rfl

@[simp] theorem complete_cmd (c : Config) (s : State) : (complete c s).cmd = (latchedResults c s).cmd := rfl
@[simp] theorem complete_status (c : Config) (s : State) : (complete c s).status = s.status.completed := rfl
@[simp] theorem complete_width (c : Config) (s : State) : (complete c s).width = (latchedResults c s).width := rfl
@[simp] theorem complete_height (c : Config) (s : State) : (complete c s).height = (latchedResults c s).height := rfl
@[simp] theorem complete_plen (c : Config) (s : State) : (complete c s).plen = (latchedResults c s).plen := rfl
@[simp] theorem complete_flen (c : Config) (s : State) : (complete c s).flen = (latchedResults c s).flen := rfl
@[simp] theorem complete_pix (c : Config) (s : State) : (complete c s).pix = (latchedResults c s).pix := rfl
@[simp] theorem complete_mono (c : Config) (s : State) : (complete c s).mono = (latchedResults c s).mono := rfl
@[simp] theorem complete_payload (c : Config) (s : State) : (complete c s).payload = (latchedResults c s).payload := rfl
@[simp] theorem complete_frame (c : Config) (s : State) : (complete c s).frame = (latchedResults c s).frame := rfl
@[simp] theorem complete_seq (c : Config) (s : State) : (complete c s).seq = .idle := rfl
@[simp] theorem complete_latch (c : Config) (s : State) : (complete c s).latch = none := rfl
@[simp] theorem complete_work (c : Config) (s : State) : (complete c s).work = [] := rfl
@[simp] theorem complete_inputs (c : Config) (s : State) : (complete c s).inputs = (latchedResults c s).inputs := rfl
@[simp] theorem complete_rdata (c : Config) (s : State) : (complete c s).rdata = (latchedResults c s).rdata := rfl
@[simp] theorem complete_epoch (c : Config) (s : State) : (complete c s).epoch = (latchedResults c s).epoch := rfl
@[simp] theorem complete_draws (c : Config) (s : State) : (complete c s).draws = (latchedResults c s).draws := rfl

/-! ### Reset -/

@[simp] theorem resetBlock_cmd (s : State) : (resetBlock s).cmd = 0 := rfl
@[simp] theorem resetBlock_status (s : State) : (resetBlock s).status = .zero := rfl
@[simp] theorem resetBlock_width (s : State) : (resetBlock s).width = 0 := rfl
@[simp] theorem resetBlock_height (s : State) : (resetBlock s).height = 0 := rfl
@[simp] theorem resetBlock_plen (s : State) : (resetBlock s).plen = 0 := rfl
@[simp] theorem resetBlock_flen (s : State) : (resetBlock s).flen = 0 := rfl
@[simp] theorem resetBlock_pix (s : State) : (resetBlock s).pix = [] := rfl
@[simp] theorem resetBlock_mono (s : State) : (resetBlock s).mono = [] := rfl
@[simp] theorem resetBlock_payload (s : State) : (resetBlock s).payload = [] := rfl
@[simp] theorem resetBlock_frame (s : State) : (resetBlock s).frame = [] := rfl
@[simp] theorem resetBlock_seq (s : State) : (resetBlock s).seq = .idle := rfl
@[simp] theorem resetBlock_latch (s : State) : (resetBlock s).latch = none := rfl
@[simp] theorem resetBlock_work (s : State) : (resetBlock s).work = [] := rfl
@[simp] theorem resetBlock_inputs (s : State) : (resetBlock s).inputs = s.inputs := rfl
@[simp] theorem resetBlock_rdata (s : State) : (resetBlock s).rdata = s.rdata := rfl
@[simp] theorem resetBlock_epoch (s : State) : (resetBlock s).epoch = s.epoch + 1 := rfl
@[simp] theorem resetBlock_draws (s : State) : (resetBlock s).draws = s.draws := rfl

/-! ### Status -/

@[simp] theorem Status.accepted_busy (b : Bool) : (Status.accepted b).busy = true := rfl
@[simp] theorem Status.completed_busy (st : Status) : st.completed.busy = false := rfl
@[simp] theorem Status.completed_unsup (st : Status) : st.completed.unsup = st.unsup := rfl
@[simp] theorem Status.rejected_busy (e : Cause) : (Status.rejected e).busy = false := rfl
@[simp] theorem Status.rejected_err (e : Cause) : (Status.rejected e).err = true := rfl
@[simp] theorem Status.zero_busy : Status.zero.busy = false := rfl
@[simp] theorem Status.zero_err : Status.zero.err = false := rfl

theorem Status.completed_accepted (b : Bool) : (Status.accepted b).completed
    = { busy := false, done := true, err := false, unsup := b, errCode := 0, errSub := 0 } := rfl

/-! ### One step -/

theorem stepIn_of_no_input (c : Config) {s : State} (h : s.inputs = []) : stepIn c s = .next (finish c s) := by
  simp only [stepIn, h]

theorem stepIn_of_input (c : Config) {s : State} {x : Input} {rest : List Input} (h : s.inputs = x :: rest) :
    stepIn c s = serve c x { s with inputs := rest } := by
  simp only [stepIn, h]

/-- A step is a step under the default configuration (entry 3). -/
theorem step_eq_stepIn (s : State) : step s = stepIn defaultConfig s := rfl

theorem step_of_no_input {s : State} (h : s.inputs = []) : step s = .next (finish defaultConfig s) :=
  stepIn_of_no_input defaultConfig h

theorem step_of_input {s : State} {x : Input} {rest : List Input} (h : s.inputs = x :: rest) :
    step s = serve defaultConfig x { s with inputs := rest } := stepIn_of_input defaultConfig h

@[simp] theorem reset_memory_wf (sp : Space) : (State.reset.buffer sp).wf = true := by cases sp <;> rfl

end Sys2Proof.Machine
end

