-- ==== Sys2Proof/Laws/Units.lean ====
section
/-! SUPPORT. What the units compute, place by place: luminances, decisions of the point quantisers, visited bits, packed bytes,
frame bytes. -/

namespace Sys2Proof.Machine

/-! ### Luminance -/

theorem lumaOfQuads_getElem? (bs : List Byte) (p : Nat) (h : 4 * p + 3 < bs.length) :
    (lumaOfQuads bs)[p]? = some (luma (bs.getD (4 * p) 0) (bs.getD (4 * p + 1) 0) (bs.getD (4 * p + 2) 0)) := by
  induction p generalizing bs with
  | zero =>
    match bs, h with
    | r :: g :: b :: a :: rest, _ => rfl
  | succ p ih =>
    match bs, h with
    | r :: g :: b :: a :: rest, h =>
      have := ih rest (by simp only [List.length_cons] at h; omega)
      simp only [lumaOfQuads, List.getElem?_cons_succ, this]
      rfl

theorem lumaOfQuads_length (bs : List Byte) (n : Nat) (h : bs.length = 4 * n) : (lumaOfQuads bs).length = n := by
  induction n generalizing bs with
  | zero =>
    match bs, h with
    | [], _ => rfl
  | succ n ih =>
    match bs, h with
    | r :: g :: b :: a :: rest, h =>
      simp only [lumaOfQuads, List.length_cons]
      rw [ih rest (by simp only [List.length_cons] at h; omega)]

@[simp] theorem State.lumas_length (s : State) (n : Nat) : (s.lumas n).length = n :=
  lumaOfQuads_length _ _ (by simp)

/-- The luminance list holds `L1000(p)` at place `p` (R110). -/
theorem State.lumas_getElem? (s : State) (n p : Nat) (h : p < n) : (s.lumas n)[p]? = some (s.luma1000 p) := by
  have hb : ∀ i, i < 4 * n → (s.readBytes .pix 0 (4 * n)).getD i 0 = s.readByte .pix i := fun i hi => by
    rw [List.getD_eq_getElem?_getD, State.readBytes_getElem? s .pix 0 (4 * n) i hi, Nat.zero_add]
    rfl
  rw [State.lumas, lumaOfQuads_getElem? _ _ (by simp; omega)]
  rw [hb _ (by omega), hb _ (by omega), hb _ (by omega)]
  rfl

theorem State.lumas_congr {s t : State} (hb : t.pix = s.pix) (he : t.epoch = s.epoch) (n : Nat) :
    t.lumas n = s.lumas n := by
  rw [State.lumas, State.lumas, State.readBytes_congr (by simpa using hb) he]

/-! ### The point quantisers -/

theorem flatDecisions_getElem? (ls : List Nat) (p : Nat) : (flatDecisions ls)[p]? = (ls[p]?).map flatDecision := by
  simp [flatDecisions]

@[simp] theorem flatDecisions_length (ls : List Nat) : (flatDecisions ls).length = ls.length := by simp [flatDecisions]

@[simp] theorem bayerDecisions_length (c : Config) (n : MatrixSize) (w : Nat) (t : Byte) (p : Nat) (ls : List Nat) :
    (bayerDecisions c n w t p ls).length = ls.length := by
  induction ls generalizing p with
  | nil => rfl
  | cons l ls ih => simp [bayerDecisions, ih]

/-- The decision of the pixel at place `i` of the list is taken from its own luminance and coordinates alone (R125). -/
theorem bayerDecisions_getElem? (c : Config) (n : MatrixSize) (w : Nat) (t : Byte) (p : Nat) (ls : List Nat) (i : Nat) :
    (bayerDecisions c n w t p ls)[i]? = (ls[i]?).map fun l => bayerDecision c n t ((p + i) % w) ((p + i) / w) l := by
  induction ls generalizing p i with
  | nil => simp [bayerDecisions]
  | cons l ls ih =>
    cases i with
    | zero => simp [bayerDecisions]
    | succ i =>
      simp only [bayerDecisions, List.getElem?_cons_succ, ih]
      rw [show p + 1 + i = p + (i + 1) by omega]

@[simp] theorem edScan_length (c : Config) (k : Kernel) (w h t n p : Nat) (work : List Rat) :
    (edScan c k w h t n p work).length = n := by
  induction n generalizing p work with
  | zero => rfl
  | succ n ih => simp [edScan, ih]

/-- Every quantiser decides exactly the pixels of the raster. -/
theorem quantDecisions_length (c : Config) (w h : Nat) (p : QuantParams) (ls : List Nat) (hl : ls.length = w * h) :
    (quantDecisions c w h p ls).length = w * h := by
  rcases p with ⟨algorithm, thresh, inv⟩
  cases algorithm with
  | flat => simpa [quantDecisions] using hl
  | ordered n => simpa [quantDecisions] using hl
  | diffusion k => simp [quantDecisions, edDecisions]

/-! ### The packer -/

theorem rasterRows_length (w h : Nat) (bs : List Byte) : (rasterRows w h bs).length = h := by
  induction h generalizing bs with
  | zero => rfl
  | succ h ih => simp [rasterRows, ih]

theorem rasterRows_getElem? (w h : Nat) (bs : List Byte) (y : Nat) (hy : y < h) :
    (rasterRows w h bs)[y]? = some ((bs.drop (y * w)).take w) := by
  induction h generalizing bs y with
  | zero => omega
  | succ h ih =>
    cases y with
    | zero => simp [rasterRows]
    | succ y =>
      rw [rasterRows, List.getElem?_cons_succ, ih _ _ (by omega), List.drop_drop]
      rw [show w + y * w = (y + 1) * w by rw [Nat.add_mul, Nat.one_mul, Nat.add_comm]]

theorem columnMajor_length (w : Nat) (rows : List (List Byte)) : (columnMajor w rows).length = w * rows.length := by
  induction w generalizing rows with
  | zero => simp [columnMajor]
  | succ w ih =>
    simp only [columnMajor, List.length_append, List.length_map, ih]
    rw [Nat.add_mul, Nat.one_mul, Nat.add_comm]

/-- Place `x * h + y` of the column-major order is column `x`, row `y` (R172). -/
theorem columnMajor_getElem? (w : Nat) (rows : List (List Byte)) (x y : Nat) (hx : x < w) (hy : y < rows.length) :
    (columnMajor w rows)[x * rows.length + y]? = some ((rows[y].drop x).headD 0) := by
  induction w generalizing rows x with
  | zero => omega
  | succ w ih =>
    rw [columnMajor]
    cases x with
    | zero =>
      rw [Nat.zero_mul, Nat.zero_add, List.getElem?_append_left (by simpa using hy)]
      simp [hy]
    | succ x =>
      rw [List.getElem?_append_right (by simp only [List.length_map]; rw [Nat.add_mul]; omega)]
      have e : (x + 1) * rows.length + y - (rows.map (·.headD 0)).length
          = x * (rows.map List.tail).length + y := by
        simp only [List.length_map]
        rw [Nat.add_mul, Nat.one_mul]
        omega
      rw [e, ih (rows.map List.tail) x (by omega) (by simpa using hy)]
      simp only [List.getElem_map, List.drop_tail]

@[simp] theorem visitedBits_length (w h : Nat) (mono : List Byte) : (visitedBits w h mono).length = w * h := by
  simp [visitedBits, columnMajor_length, mirrorRows, rasterRows_length]

/-- The `k`-th visited bit, `k = x * h + y`, is that of the pixel in mirrored column `x`, row `y` (R171 to R173). -/
theorem visitedBits_getElem? (w h : Nat) (mono : List Byte) (hl : mono.length = w * h) (x y : Nat) (hx : x < w)
    (hy : y < h) : (visitedBits w h mono)[x * h + y]? = (mono[y * w + (w - 1 - x)]?).map monoBit := by
  have hlen : (mirrorRows (rasterRows w h mono)).length = h := by simp [mirrorRows, rasterRows_length]
  have hrow : (rasterRows w h mono)[y]? = some ((mono.drop (y * w)).take w) := rasterRows_getElem? w h mono y hy
  have hle : y * w + w ≤ w * h := by
    have := Nat.mul_le_mul_left w (show y + 1 ≤ h from hy)
    rw [Nat.mul_add, Nat.mul_one, Nat.mul_comm w y] at this
    exact this
  have hrl : ((mono.drop (y * w)).take w).length = w := by simp; omega
  have hm : (mirrorRows (rasterRows w h mono))[y]'(by omega) = ((mono.drop (y * w)).take w).reverse := by
    simp only [mirrorRows, List.getElem_map]
    rw [List.getElem?_eq_some_iff] at hrow
    rw [hrow.2]
  have hc := columnMajor_getElem? w (mirrorRows (rasterRows w h mono)) x y hx (by omega)
  rw [hm] at hc
  simp only [hlen] at hc
  rw [visitedBits, List.getElem?_map, hc]
  have hi : y * w + (w - 1 - x) < mono.length := by omega
  rw [List.getElem?_eq_getElem hi]
  simp only [Option.map_some, List.headD_eq_head?_getD, List.head?_drop]
  rw [List.getElem?_reverse (by omega), hrl, List.getElem?_take_of_lt (by omega), List.getElem?_drop,
    List.getElem?_eq_getElem hi]
  rfl

@[simp] theorem packBytes_length (n : Nat) (bs : List Bool) : (packBytes n bs).length = n := by
  induction n generalizing bs with
  | zero => rfl
  | succ n ih => simp [packBytes, ih]

theorem byteOfBits_getLsbD (bs : List Bool) (i : Nat) (hi : i < 8) :
    (byteOfBits bs).getLsbD (7 - i) = bs.getD i false := by
  have h : ∀ b0 b1 b2 b3 b4 b5 b6 b7 : Bool, ∀ i : Fin 8,
      (BitVec.ofBoolListBE [b0, b1, b2, b3, b4, b5, b6, b7]).getLsbD (7 - i.val)
        = [b0, b1, b2, b3, b4, b5, b6, b7].getD i.val false := by decide
  have e := h (bs.getD 0 false) (bs.getD 1 false) (bs.getD 2 false) (bs.getD 3 false) (bs.getD 4 false)
    (bs.getD 5 false) (bs.getD 6 false) (bs.getD 7 false) ⟨i, hi⟩
  refine e.trans ?_
  match i, hi with
  | 0, _ | 1, _ | 2, _ | 3, _ | 4, _ | 5, _ | 6, _ | 7, _ => rfl

/-- Bit `7 - i` of byte `j` is bit `8 j + i` of the sequence, 0 past its end (R174, R175). -/
theorem packBytes_getElem? (n : Nat) (bs : List Bool) (j : Nat) (hj : j < n) :
    (packBytes n bs)[j]? = some (byteOfBits ((bs.drop (8 * j)).take 8)) := by
  induction n generalizing bs j with
  | zero => omega
  | succ n ih =>
    cases j with
    | zero => simp [packBytes]
    | succ j =>
      rw [packBytes, List.getElem?_cons_succ, ih _ _ (by omega), List.drop_drop]
      rw [show 8 + 8 * j = 8 * (j + 1) by omega]

/-- The packed byte of visited pixel `k`, and its bit (R174, R175). -/
theorem packBytes_bit (n : Nat) (bs : List Bool) (k : Nat) (hk : k < 8 * n) :
    ∃ v, (packBytes n bs)[k / 8]? = some v ∧ v.getLsbD (7 - k % 8) = bs.getD k false := by
  refine ⟨_, packBytes_getElem? n bs (k / 8) (by omega), ?_⟩
  rw [byteOfBits_getLsbD _ _ (Nat.mod_lt _ (by omega))]
  simp only [List.getD_eq_getElem?_getD]
  rw [List.getElem?_take_of_lt (Nat.mod_lt _ (by omega)), List.getElem?_drop, Nat.div_add_mod]

@[simp] theorem packedBytes_length (w h : Nat) (mono : List Byte) : (packedBytes w h mono).length = packedLen (w * h) := by
  simp [packedBytes]

/-! ### The frame -/

@[simp] theorem frameBytes_length (payload : List Byte) : (frameBytes payload).length = 12 + payload.length := by
  simp [frameBytes, frameHeader, frameTrailer]
  omega

theorem frameBytes_header (payload : List Byte) (i : Nat) (h : i < 10) : (frameBytes payload)[i]? = frameHeader[i]? := by
  rw [frameBytes, List.append_assoc, List.getElem?_append_left (by simpa [frameHeader] using h)]

theorem frameBytes_payload (payload : List Byte) (j : Nat) (h : j < payload.length) :
    (frameBytes payload)[10 + j]? = payload[j]? := by
  rw [frameBytes, List.append_assoc, List.getElem?_append_right (by simp [frameHeader]),
    List.getElem?_append_left (by simp [frameHeader]; omega)]
  simp [frameHeader]

theorem frameBytes_trailer (payload : List Byte) (i : Nat) :
    (frameBytes payload)[10 + payload.length + i]? = frameTrailer[i]? := by
  rw [frameBytes, List.getElem?_append_right (by simp [frameHeader]; omega)]
  simp [frameHeader]
  congr 1
  omega

end Sys2Proof.Machine
end

