-- ==== Sys2Proof/Laws/Issue.lean ====
section
/-! SUPPORT. What the issue of a command can do: every meaning as the issue of its request, the cases of issue, and the order of
checks as a chain of conditions. -/

namespace Sys2Proof.Machine

/-- The request a command issues; `CLR` issues none. -/
def requestOf : Instr → Option Request
  | .qFlat t m inv => some (.quant 0 t m inv)
  | .qFs t m inv => some (.quant 1 t m inv)
  | .qBayer t m inv => some (.quant 2 t m inv)
  | .qAtk t m inv => some (.quant 3 t m inv)
  | .qJar t m inv => some (.quant 4 t m inv)
  | .qStu t m inv => some (.quant 5 t m inv)
  | .qBur t m inv => some (.quant 6 t m inv)
  | .qSie t m inv => some (.quant 7 t m inv)
  | .qSil t m inv => some (.quant 8 t m inv)
  | .qFallback9 t m inv => some (.quant 9 t m inv)
  | .qFallbackAB alg t m inv => some (.quant alg t m inv)
  | .qFallbackCF alg t m inv => some (.quant alg t m inv)
  | .pack _ _ _ _ => some .pack
  | .frame _ _ _ _ => some .frame
  | .encode _ _ _ _ => some .encode
  | .convert alg t m inv => some (.convert alg t m inv)
  | .clr _ _ _ _ => none

/-- `exec` is `execIn` at the default configuration, command by command (entry 3). -/
theorem execIn_default (i : Instr) (s : State) : execIn defaultConfig i s = exec i s := by
  cases i <;> rfl

/-- Every command but `CLR` is the issue of its request with its own word. -/
theorem execIn_eq_issue {i : Instr} {r : Request} (c : Config) (h : requestOf i = some r) (s : State) :
    execIn c i s = .next (issue c (encode i) r s) := by
  cases i <;> first | (cases h; rfl) | cases h

theorem exec_eq_issue {i : Instr} {r : Request} (h : requestOf i = some r) (s : State) :
    exec i s = .next (issue defaultConfig (encode i) r s) := by
  rw [← execIn_default, execIn_eq_issue defaultConfig h]

theorem execIn_clr (c : Config) (alg : Nibble) (t m : Byte) (inv : Bool) (s : State) :
    execIn c (.clr alg t m inv) s = .next (clear s) := rfl

theorem exec_clr (alg : Nibble) (t m : Byte) (inv : Bool) (s : State) : exec (.clr alg t m inv) s = .next (clear s) := rfl

/-- A command either issues a request or is `CLR`. -/
theorem requestOf_cases (i : Instr) : (∃ r, requestOf i = some r) ∨ ∃ alg t m inv, i = .clr alg t m inv := by
  cases i <;> first | exact .inl ⟨_, rfl⟩ | exact .inr ⟨_, _, _, _, rfl⟩

theorem requestOf_quant {i : Instr} {alg : Nibble} {t m : Byte} {inv : Bool} (h : quantFields i = some (alg, t, m, inv)) :
    requestOf i = some (.quant alg t m inv) ∧ encode i = commandWord 0x1 alg t m inv := by
  cases i <;> first | (cases h; exact ⟨rfl, rfl⟩) | cases h

/-- Issue is one of three things: ignored, rejected, accepted (R9). -/
theorem issue_cases (c : Config) (word : Word) (r : Request) (s : State) :
    (s.status.busy = true ∧ issue c word r s = s) ∨
    (s.status.busy = false ∧ ∃ e, rejection c r s = some e ∧ issue c word r s = reject word e s) ∨
    (s.status.busy = false ∧ rejection c r s = none ∧ issue c word r s = accept word r s) := by
  unfold issue
  cases hb : s.status.busy with
  | true => exact .inl ⟨rfl, rfl⟩
  | false =>
    cases hr : rejection c r s with
    | some e => exact .inr (.inl ⟨rfl, e, rfl, rfl⟩)
    | none => exact .inr (.inr ⟨rfl, rfl, rfl⟩)

theorem issue_of_accepted {c : Config} {word : Word} {r : Request} {s : State} (hb : s.status.busy = false)
    (hr : rejection c r s = none) : issue c word r s = accept word r s := by
  simp [issue, hb, hr]

theorem issue_of_rejected {c : Config} {word : Word} {r : Request} {s : State} {e : Cause} (hb : s.status.busy = false)
    (hr : rejection c r s = some e) : issue c word r s = reject word e s := by
  simp [issue, hb, hr]

theorem reject_rejectedAs (word : Word) (e : Cause) (s : State) : RejectedAs s (reject word e s) word e.code e.sub := rfl

theorem accept_acceptedAs (word : Word) (r : Request) (s : State) :
    AcceptedAs s (accept word r s) word r.unsup (r.job s.imageW s.imageH) (r.job s.imageW s.imageH).firstPhase := rfl

theorem Cause.codes_legal (e : Cause) : legalCodes e.code e.sub := by cases e <;> simp [legalCodes, Cause.code, Cause.sub]

/-! ### The checks -/

@[simp] theorem firstFailing_nil : firstFailing [] = none := rfl

@[simp] theorem firstFailing_cons (b : Bool) (e : Cause) (rest : List (Bool × Cause)) :
    firstFailing ((b, e) :: rest) = if b then some e else firstFailing rest := rfl

/-- The parameter checks of a request with an `ALG` field (R216 lines 4 and 5). -/
theorem algUnsupported_iff (alg : Nibble) : algUnsupported alg = true ↔ 8#4 < alg := by
  revert alg
  decide

theorem sizeUnsupported_iff (alg : Nibble) (m : Byte) :
    sizeUnsupported alg m = true ↔ alg = 2#4 ∧ m ≠ 2#8 ∧ m ≠ 4#8 ∧ m ≠ 8#8 := by
  simp only [sizeUnsupported, Bool.and_eq_true, beq_iff_eq, matrixSizeOf]
  by_cases h2 : m = 2#8
  · simp [h2]
  by_cases h4 : m = 4#8
  · simp [h4]
  by_cases h8 : m = 8#8
  · simp [h8]
  simp [h2, h4, h8]

/-- The checks of `QUANT` as a chain of conditions (R216). -/
theorem rejection_quant (c : Config) (alg : Nibble) (t m : Byte) (inv : Bool) (s : State) :
    rejection c (.quant alg t m inv) s =
      if c.strictParams = true ∧ 8#4 < alg then some .algRange
      else if c.strictParams = true ∧ alg = 2#4 ∧ m ≠ 2#8 ∧ m ≠ 4#8 ∧ m ≠ 8#8 then some .matrixSize
      else if s.imageW = 0 ∨ s.imageH = 0 then some .zeroArea
      else if c.maxPix < s.imageW * s.imageH then some .capacity
      else none := by
  simp only [rejection, checks, firstFailing_cons, firstFailing_nil, Request.algOutOfRange, Request.sizeOutOfRange,
    Request.isFrame, Request.encodes, Bool.and_eq_true, algUnsupported_iff, sizeUnsupported_iff, Bool.false_and,
    Bool.not_false, Bool.true_and, Bool.or_eq_true, beq_iff_eq, decide_eq_true_eq, Bool.false_eq_true, if_false]

/-- The checks of `CONVERT` as a chain of conditions (R216). -/
theorem rejection_convert (c : Config) (alg : Nibble) (t m : Byte) (inv : Bool) (s : State) :
    rejection c (.convert alg t m inv) s =
      if c.strictParams = true ∧ 8#4 < alg then some .algRange
      else if c.strictParams = true ∧ alg = 2#4 ∧ m ≠ 2#8 ∧ m ≠ 4#8 ∧ m ≠ 8#8 then some .matrixSize
      else if s.imageW = 0 ∨ s.imageH = 0 then some .zeroArea
      else if c.maxPix < s.imageW * s.imageH then some .capacity
      else if s.imageW * s.imageH % 8 ≠ 0 then some .notByteAligned
      else if s.imageW ≠ 240 ∨ s.imageH ≠ 96 then some .targetMismatch
      else none := by
  simp only [rejection, checks, firstFailing_cons, firstFailing_nil, Request.algOutOfRange, Request.sizeOutOfRange,
    Request.isFrame, Request.encodes, Bool.and_eq_true, algUnsupported_iff, sizeUnsupported_iff, Bool.false_and,
    Bool.not_false, Bool.true_and, Bool.or_eq_true, beq_iff_eq, decide_eq_true_eq, Bool.false_eq_true, if_false,
    bne_iff_ne, targetW, targetH]

/-- The checks of `PACK` as a chain of conditions (R216). -/
theorem rejection_pack (c : Config) (s : State) :
    rejection c .pack s =
      if s.imageW = 0 ∨ s.imageH = 0 then some .zeroArea
      else if c.maxPix < s.imageW * s.imageH then some .capacity
      else none := by
  simp only [rejection, checks, firstFailing_cons, firstFailing_nil, Request.algOutOfRange, Request.sizeOutOfRange,
    Request.isFrame, Request.encodes, Bool.and_false, Bool.false_and,
    Bool.not_false, Bool.true_and, Bool.or_eq_true, beq_iff_eq, decide_eq_true_eq, Bool.false_eq_true, if_false]

/-- The checks of `ENCODE` as a chain of conditions (R216). -/
theorem rejection_encode (c : Config) (s : State) :
    rejection c .encode s =
      if s.imageW = 0 ∨ s.imageH = 0 then some .zeroArea
      else if c.maxPix < s.imageW * s.imageH then some .capacity
      else if s.imageW * s.imageH % 8 ≠ 0 then some .notByteAligned
      else if s.imageW ≠ 240 ∨ s.imageH ≠ 96 then some .targetMismatch
      else none := by
  simp only [rejection, checks, firstFailing_cons, firstFailing_nil, Request.algOutOfRange, Request.sizeOutOfRange,
    Request.isFrame, Request.encodes, Bool.and_false, Bool.false_and,
    Bool.not_false, Bool.true_and, Bool.or_eq_true, beq_iff_eq, decide_eq_true_eq, Bool.false_eq_true, if_false,
    bne_iff_ne, targetW, targetH]

/-- The one check of `FRAME` (R216 line 6). -/
theorem rejection_frame (c : Config) (s : State) :
    rejection c .frame s = if s.plen ≠ 2880#32 then some .targetMismatch else none := by
  simp only [rejection, checks, firstFailing_cons, firstFailing_nil, Request.algOutOfRange, Request.sizeOutOfRange,
    Request.isFrame, Request.encodes, Bool.and_false, Bool.false_and, Bool.not_true, Bool.true_and,
    Bool.false_eq_true, if_false, bne_iff_ne, payloadLen]

/-- An accepted request latches a job that has passed its checks. -/
theorem job_legal_of_accepted {c : Config} {r : Request} {s : State} (h : rejection c r s = none) :
    (r.job s.imageW s.imageH).Legal c := by
  cases r with
  | quant alg t m inv =>
    rw [rejection_quant] at h
    split_ifs at h
    simp only [Request.job, Job.Legal]
    omega
  | pack =>
    rw [rejection_pack] at h
    split_ifs at h
    simp only [Request.job, Job.Legal]
    omega
  | frame => trivial
  | encode =>
    rw [rejection_encode] at h
    split_ifs at h
    simp only [Request.job, Job.Legal]
    omega
  | convert alg t m inv =>
    rw [rejection_convert] at h
    split_ifs at h
    simp only [Request.job, Job.Legal]
    omega

end Sys2Proof.Machine
end

