-- ==== Sys2Proof/Laws/Completion.lean ====
section
/-! SUPPORT. What an accepted command leaves behind when the block is left to itself, and what each result byte reads as. -/

namespace Sys2Proof.Machine

/-! ### From acceptance to completion -/

/-- The state after a request accepted in `s` with this word has completed, no input being left. -/
def afterCompletion (c : Config) (word : Word) (r : Request) (s : State) : State :=
  { results c s (r.job s.imageW s.imageH) with
    cmd := word
    status := { busy := false, done := true, err := false, unsup := r.unsup, errCode := 0, errSub := 0 }
    latch := none
    seq := .idle
    work := []
    inputs := [] }

theorem complete_accept (c : Config) (word : Word) (r : Request) (s : State) :
    complete c { accept word r s with inputs := [] } = afterCompletion c word r s := by
  cases r <;> rfl

/-- A request accepted and left to itself completes in the next step (R261). -/
theorem stepIn_accept (c : Config) (word : Word) (r : Request) (s : State) :
    stepIn c { accept word r s with inputs := [] } = .next (afterCompletion c word r s) := by
  rw [stepIn_of_no_input c rfl, ← complete_accept]
  rfl

theorem step_accept (word : Word) (r : Request) (s : State) :
    step { accept word r s with inputs := [] } = .next (afterCompletion defaultConfig word r s) :=
  stepIn_accept defaultConfig word r s

/-- An accepted command: its step, and the step after it. -/
theorem execIn_accepted {c : Config} {i : Instr} {r : Request} {s : State} (h : requestOf i = some r)
    (hb : s.status.busy = false) (hr : rejection c r s = none) : execIn c i s = .next (accept (encode i) r s) := by
  rw [execIn_eq_issue c h, issue_of_accepted hb hr]

theorem exec_accepted {i : Instr} {r : Request} {s : State} (h : requestOf i = some r) (hb : s.status.busy = false)
    (hr : rejection defaultConfig r s = none) : exec i s = .next (accept (encode i) r s) := by
  rw [exec_eq_issue h, issue_of_accepted hb hr]

theorem afterCompletion_finishedAs (c : Config) (word : Word) (r : Request) (s : State) :
    FinishedAs s (afterCompletion c word r s) word r.unsup := by
  cases r <;> rfl

/-- A legal geometry passes the checks of `QUANT` at the default configuration. -/
theorem ReadyForRaster.quant_accepted {s : State} (h : ReadyForRaster s) (alg : Nibble) (t m : Byte) (inv : Bool) :
    rejection defaultConfig (.quant alg t m inv) s = none := by
  obtain ⟨-, hw, hh, hc⟩ := h
  rw [rejection_quant, if_neg (by simp [defaultConfig]), if_neg (by simp [defaultConfig]), if_neg (by omega),
    if_neg (by simpa [defaultConfig] using hc)]

theorem ReadyForRaster.pack_accepted {s : State} (h : ReadyForRaster s) : rejection defaultConfig .pack s = none := by
  obtain ⟨-, hw, hh, hc⟩ := h
  rw [rejection_pack, if_neg (by omega), if_neg (by simpa [defaultConfig] using hc)]

theorem ReadyForFrame.imageW {s : State} (h : ReadyForFrame s) : s.imageW = 240 := by
  rw [State.imageW, h.2.1]
  rfl

theorem ReadyForFrame.imageH {s : State} (h : ReadyForFrame s) : s.imageH = 96 := by
  rw [State.imageH, h.2.2]
  rfl

theorem ReadyForFrame.raster {s : State} (h : ReadyForFrame s) : ReadyForRaster s := by
  refine ⟨h.1, ?_, ?_, ?_⟩ <;> simp only [h.imageW, h.imageH] <;> omega

theorem ReadyForFrame.encode_accepted {s : State} (h : ReadyForFrame s) : rejection defaultConfig .encode s = none := by
  rw [rejection_encode, h.imageW, h.imageH]
  simp [defaultConfig]

theorem ReadyForFrame.convert_accepted {s : State} (h : ReadyForFrame s) (alg : Nibble) (t m : Byte) (inv : Bool) :
    rejection defaultConfig (.convert alg t m inv) s = none := by
  rw [rejection_convert, h.imageW, h.imageH]
  simp [defaultConfig]

/-! ### Result bytes -/

/-- `MONO` after `QUANT`: the byte of each pixel is its decision exclusive-or `inv` (R114). -/
theorem quantStage_readByte_mono (c : Config) (w h : Nat) (p : QuantParams) (s : State) (q : Nat) (d : Bool)
    (hd : (quantDecisions c w h p (s.lumas (w * h)))[q]? = some d) :
    (quantStage c w h p s).readByte .mono q = if xor d p.inv then 0xFF#8 else 0x00#8 := by
  have := State.readByte_writeBytes_in s .mono 0 ((quantDecisions c w h p (s.lumas (w * h))).map (outByte p.inv)) q
    (outByte p.inv d) (by simp [hd])
  rw [Nat.zero_add] at this
  exact this

theorem quantStage_readByte_mono_out (c : Config) (w h : Nat) (p : QuantParams) (s : State) (q : Nat) (hq : w * h ≤ q) :
    (quantStage c w h p s).readByte .mono q = s.readByte .mono q := by
  refine State.readByte_writeBytes_out s .mono 0 _ q (.inr ?_)
  rw [List.length_map, quantDecisions_length _ _ _ _ _ (by simp)]
  omega

/-- `PAYLOAD` after `PACK` holds the packed raster (R171 to R175). -/
theorem packStage_packsRaster (w h : Nat) (s : State) : PacksRaster s (packStage w h s) w h := by
  have hlen : (s.readBytes .mono 0 (w * h)).length = w * h := by simp
  have hbyte : ∀ k, k < 8 * packedLen (w * h) →
      ((packStage w h s).readByte .payload (k / 8)).getLsbD (7 - k % 8)
        = (visitedBits w h (s.readBytes .mono 0 (w * h))).getD k false := fun k hk => by
    obtain ⟨v, hv, hbit⟩ := packBytes_bit (packedLen (w * h)) (visitedBits w h (s.readBytes .mono 0 (w * h))) k hk
    have := State.readByte_writeBytes_in s .payload 0 (packedBytes w h (s.readBytes .mono 0 (w * h))) (k / 8) v hv
    rw [Nat.zero_add] at this
    rw [show (packStage w h s).readByte .payload (k / 8) = v from this, hbit]
  constructor
  · intro x y hx hy
    have hk : x * h + y < w * h := by
      have := Nat.mul_le_mul_right h (show x + 1 ≤ w from hx)
      rw [Nat.add_mul] at this
      omega
    have hp : y * w + (w - 1 - x) < w * h := by
      have := Nat.mul_le_mul_right w (show y + 1 ≤ h from hy)
      rw [Nat.add_mul, Nat.mul_comm h w] at this
      omega
    rw [hbyte _ (by unfold packedLen; omega), List.getD_eq_getElem?_getD, visitedBits_getElem? w h _ hlen x y hx hy,
      State.readBytes_getElem? s .mono 0 (w * h) _ hp, Nat.zero_add]
    rfl
  · intro k hk hk8
    rw [hbyte k (by unfold packedLen; omega), List.getD_eq_getElem?_getD, List.getElem?_eq_none (by simpa using hk)]
    rfl

theorem packStage_readByte_payload_out (w h : Nat) (s : State) (a : Nat) (ha : (w * h + 7) / 8 ≤ a) :
    (packStage w h s).readByte .payload a = s.readByte .payload a :=
  State.readByte_writeBytes_out s .payload 0 _ a (.inr (by simpa [packedLen] using ha))

/-- `FRAME` after `FRAME` holds header, payload and trailer (R185 to R187). -/
theorem frameStage_holdsFrame (s : State) : HoldsFrameOf s (frameStage s) := by
  have hlen : (s.readBytes .payload 0 payloadLen).length = 2880 := by simp [payloadLen]
  have hin : ∀ i v, (frameBytes (s.readBytes .payload 0 payloadLen))[i]? = some v →
      (frameStage s).readByte .frame i = v := fun i v hv => by
    have := State.readByte_writeBytes_in s .frame 0 (frameBytes (s.readBytes .payload 0 payloadLen)) i v hv
    rwa [Nat.zero_add] at this
  refine ⟨⟨?_, ?_, ?_, ?_, ?_, ?_, ?_, ?_, ?_, ?_⟩, fun j hj => hin _ _ ?_, hin _ _ ?_, hin _ _ ?_⟩
  · exact hin _ _ ((frameBytes_header _ _ (by omega)).trans rfl)
  · exact hin _ _ ((frameBytes_header _ _ (by omega)).trans rfl)
  · exact hin _ _ ((frameBytes_header _ _ (by omega)).trans rfl)
  · exact hin _ _ ((frameBytes_header _ _ (by omega)).trans rfl)
  · exact hin _ _ ((frameBytes_header _ _ (by omega)).trans rfl)
  · exact hin _ _ ((frameBytes_header _ _ (by omega)).trans rfl)
  · exact hin _ _ ((frameBytes_header _ _ (by omega)).trans rfl)
  · exact hin _ _ ((frameBytes_header _ _ (by omega)).trans rfl)
  · exact hin _ _ ((frameBytes_header _ _ (by omega)).trans rfl)
  · exact hin _ _ ((frameBytes_header _ _ (by omega)).trans rfl)
  · rw [frameBytes_payload _ _ (by omega), State.readBytes_getElem? s .payload 0 payloadLen j hj, Nat.zero_add]
  · have := frameBytes_trailer (s.readBytes .payload 0 payloadLen) 0
    rw [hlen] at this
    exact this
  · have := frameBytes_trailer (s.readBytes .payload 0 payloadLen) 1
    rw [hlen] at this
    exact this

/-- The results depend on the buffers the job reads and on the reset count, and never on the hidden scan. -/
theorem complete_ignores_scan (c : Config) (s : State) (q : Seq) (wk : List Rat) :
    complete c { s with seq := q, work := wk } = complete c s := by
  unfold complete latchedResults
  cases hl : s.latch with
  | none => simp only
  | some j => cases j <;> rfl

/-! ### The scan -/

/-- One position of the scan is: nothing on an idle block, a later scan index with another `WORK`, or the completion step. -/
theorem scanOne_cases (c : Config) (s : State) :
    (s.status.busy = false ∧ scanOne c s = s) ∨
    (s.status.busy = true ∧ ∃ j q, s.latch = some j ∧ s.seq.next j = some q ∧
      scanOne c s = { s with seq := q, work := workAfter c j s.seq s.work }) ∨
    (s.status.busy = true ∧ (∀ j, s.latch = some j → s.seq.next j = none) ∧ scanOne c s = complete c s) := by
  unfold scanOne
  cases hb : s.status.busy with
  | false => exact .inl ⟨rfl, rfl⟩
  | true =>
    cases hl : s.latch with
    | none => exact .inr (.inr ⟨rfl, nofun, rfl⟩)
    | some j =>
      cases hn : s.seq.next j with
      | none => exact .inr (.inr ⟨rfl, fun _ h => Option.some.inj h ▸ hn, by simp [hn]⟩)
      | some q => exact .inr (.inl ⟨rfl, j, q, rfl, hn, by simp [hn]⟩)

theorem scanMany_idle (c : Config) (n : Nat) {s : State} (h : s.status.busy = false) : scanMany c n s = s := by
  induction n with
  | zero => rfl
  | succ n ih => rw [scanMany, show scanOne c s = s from by simp [scanOne, h], ih]

theorem complete_busy (c : Config) (s : State) : (complete c s).status.busy = false := rfl

/-- Any number of scan positions is: nothing but a scan index and `WORK`, or the completion step. -/
theorem scanMany_cases (c : Config) (n : Nat) (s : State) :
    (∃ q wk, scanMany c n s = { s with seq := q, work := wk }) ∨
    (s.status.busy = true ∧ scanMany c n s = complete c s) := by
  induction n generalizing s with
  | zero => exact .inl ⟨s.seq, s.work, rfl⟩
  | succ n ih =>
    rw [scanMany]
    rcases scanOne_cases c s with ⟨hb, h⟩ | ⟨hb, j, q, -, -, h⟩ | ⟨hb, -, h⟩
    · rw [h]
      exact ih s
    · rw [h]
      rcases ih { s with seq := q, work := workAfter c j s.seq s.work } with ⟨q', wk, h'⟩ | ⟨-, h'⟩
      · exact .inl ⟨q', wk, h'⟩
      · exact .inr ⟨hb, h'.trans (complete_ignores_scan c s _ _)⟩
    · rw [h, scanMany_idle c n (complete_busy c s)]
      exact .inr ⟨hb, rfl⟩

end Sys2Proof.Machine
end

