-- ==== Sys2Proof/Laws/Diffusion.lean ====
section
/-! SUPPORT. Error diffusion, place by place: which pixel a tap reaches, what one pixel's shares add to a working value, and the
scan as the list of its decisions. -/

namespace Sys2Proof.Machine

/-- A tap from pixel `p` reaches pixel `q` of the raster exactly when `q` is at its offset (R143). -/
theorem tapTarget_eq_some_iff {w h p q : Nat} (tap : Tap) (hq : q < w * h) :
    tapTarget w h (p % w) (p / w) tap = some q ↔ TapHits w tap p q := by
  have hw : 0 < w := Nat.pos_of_ne_zero fun e => by simp [e] at hq
  have hqh : q / w < h := Nat.div_lt_of_lt_mul hq
  have hqm := Nat.div_add_mod q w
  have hqw : q % w < w := Nat.mod_lt _ hw
  unfold tapTarget TapHits
  constructor
  · intro hs
    split at hs
    · rename_i hin
      obtain ⟨x, hx⟩ := Int.eq_ofNat_of_zero_le hin.1
      have hxw : x < w := by
        have := hin.2.1
        rw [hx] at this
        exact_mod_cast this
      have e : (p / w + tap.dy) * w + x = q := by
        have := Option.some.inj hs
        rw [hx] at this
        simpa using this
      have e1 : q % w = x := by
        rw [← e, Nat.mul_comm, Nat.mul_add_mod, Nat.mod_eq_of_lt hxw]
      have e2 : q / w = p / w + tap.dy := by
        rw [← e, Nat.mul_comm, Nat.mul_add_div hw, Nat.div_eq_of_lt hxw, Nat.add_zero]
      exact ⟨by rw [hx, e1], e2.symm⟩
    · cases hs
  · rintro ⟨h1, h2⟩
    rw [h1, h2, if_pos ⟨by omega, by exact_mod_cast hqw, hqh⟩, Int.toNat_natCast, Nat.mul_comm, hqm]

theorem edApplyTap_length (c : Config) (k : Kernel) (w h x y : Nat) (e : Rat) (work : List Rat) (tap : Tap) :
    (edApplyTap c k w h x y e work tap).length = work.length := by
  unfold edApplyTap
  split <;> simp

theorem edSpread_length (c : Config) (k : Kernel) (w h x y : Nat) (e : Rat) (work : List Rat) :
    (edSpread c k w h x y e work).length = work.length := by
  unfold edSpread
  generalize k.taps = taps
  induction taps generalizing work with
  | nil => rfl
  | cons tap taps ih => rw [List.foldl_cons, ih, edApplyTap_length]

@[simp] theorem edPixel_length (c : Config) (k : Kernel) (w h t p : Nat) (work : List Rat) :
    (edPixel c k w h t p work).length = work.length := edSpread_length ..

@[simp] theorem edWorkAfter_length (c : Config) (k : Kernel) (w h t : Nat) (init : List Rat) (n : Nat) :
    (edWorkAfter c k w h t init n).length = init.length := by
  induction n with
  | zero => rfl
  | succ n ih => rw [edWorkAfter, edPixel_length, ih]

theorem edApplyTap_getD (c : Config) (k : Kernel) (w h x y : Nat) (e : Rat) (work : List Rat) (tap : Tap) (q : Nat)
    (hq : q < work.length) :
    (edApplyTap c k w h x y e work tap).getD q 0
      = work.getD q 0 + if tapTarget w h x y tap = some q then c.share e tap.num k.den else 0 := by
  unfold edApplyTap
  cases ht : tapTarget w h x y tap with
  | none => simp
  | some r =>
    simp only [List.getD_eq_getElem?_getD, List.getElem?_modify, List.getElem?_eq_getElem hq]
    by_cases hr : r = q <;> simp [hr]

/-- What the shares of one pixel add to the working value at place `q` (R143). -/
theorem edSpread_getD (c : Config) (k : Kernel) (w h x y : Nat) (e : Rat) (work : List Rat) (q : Nat)
    (hq : q < work.length) :
    (edSpread c k w h x y e work).getD q 0
      = work.getD q 0
        + (k.taps.map fun tap => if tapTarget w h x y tap = some q then c.share e tap.num k.den else 0).sum := by
  unfold edSpread
  generalize k.taps = taps
  induction taps generalizing work with
  | nil => simp
  | cons tap taps ih =>
    rw [List.foldl_cons, ih _ (by rwa [edApplyTap_length]), edApplyTap_getD _ _ _ _ _ _ _ _ _ _ hq, List.map_cons,
      List.sum_cons, add_assoc]

/-- The scan started on the working buffer it would have reached gives the decisions of the pixels from there on. -/
theorem edScan_eq_map (c : Config) (k : Kernel) (w h t : Nat) (init : List Rat) (n p : Nat) :
    edScan c k w h t n p (edWorkAfter c k w h t init p)
      = (List.range' p n).map fun q => edPixelDecision c t q (edWorkAfter c k w h t init q) := by
  induction n generalizing p with
  | zero => rfl
  | succ n ih =>
    rw [edScan, List.range'_succ, List.map_cons]
    exact congrArg _ (ih (p + 1))

/-- The decisions of a raster are taken on the working buffer as the scan reaches each pixel (R140). -/
theorem edDecisions_eq_map (c : Config) (k : Kernel) (w h : Nat) (t : Byte) (ls : List Nat) :
    edDecisions c k w h t ls
      = (List.range (w * h)).map fun q =>
          edPixelDecision c t.toNat q (edWorkAfter c k w h t.toNat (edInit ls) q) := by
  rw [List.range_eq_range']
  exact edScan_eq_map c k w h t.toNat (edInit ls) (w * h) 0

end Sys2Proof.Machine
end

