-- ==== Sys2Proof/Laws/PerInstr.lean ====
section
/-! SUPPORT. The family `RoundTrip`, made per command: the decoder reads from a command's own word that command. -/

namespace Sys2Proof.Laws

/-- The decoder reads a well-formed command back from its word, every field at every value (R80, R87). -/
def RoundTrip.Statement (i : Instr) : Prop := i.wellFormed = true → decode (Sys2Proof.encode i) = .ok i

/-- The nibbles of the row `Q.FALLBACK.AB` decode to that row (R96). -/
theorem decodeQuant_rowAB : ∀ alg : Nibble, algInRowAB alg = true → ∀ (t m : Byte) (inv : Bool),
    decodeQuant alg t m inv = .qFallbackAB alg t m inv := by
  intro alg h t m inv
  have hc : alg = 10#4 ∨ alg = 11#4 := by simpa [algInRowAB] using h
  rcases hc with rfl | rfl <;> rfl

/-- The nibbles of the row `Q.FALLBACK.CF` decode to that row (R96). -/
theorem decodeQuant_rowCF : ∀ alg : Nibble, algInRowCF alg = true → ∀ (t m : Byte) (inv : Bool),
    decodeQuant alg t m inv = .qFallbackCF alg t m inv := by
  intro alg h t m inv
  have hc : ∀ a : Nibble, algInRowCF a = true → a = 12#4 ∨ a = 13#4 ∨ a = 14#4 ∨ a = 15#4 := by decide
  rcases hc alg h with rfl | rfl | rfl | rfl <;> rfl

theorem RoundTrip.qFlat (thresh msize : Byte) (inv : Bool) :
    RoundTrip.Statement (.qFlat thresh msize inv) := by
  intro _
  simp [Sys2Proof.encode, decode, decodeQuant]

theorem RoundTrip.qFs (thresh msize : Byte) (inv : Bool) :
    RoundTrip.Statement (.qFs thresh msize inv) := by
  intro _
  simp [Sys2Proof.encode, decode, decodeQuant]

theorem RoundTrip.qBayer (thresh msize : Byte) (inv : Bool) :
    RoundTrip.Statement (.qBayer thresh msize inv) := by
  intro _
  simp [Sys2Proof.encode, decode, decodeQuant]

theorem RoundTrip.qAtk (thresh msize : Byte) (inv : Bool) :
    RoundTrip.Statement (.qAtk thresh msize inv) := by
  intro _
  simp [Sys2Proof.encode, decode, decodeQuant]

theorem RoundTrip.qJar (thresh msize : Byte) (inv : Bool) :
    RoundTrip.Statement (.qJar thresh msize inv) := by
  intro _
  simp [Sys2Proof.encode, decode, decodeQuant]

theorem RoundTrip.qStu (thresh msize : Byte) (inv : Bool) :
    RoundTrip.Statement (.qStu thresh msize inv) := by
  intro _
  simp [Sys2Proof.encode, decode, decodeQuant]

theorem RoundTrip.qBur (thresh msize : Byte) (inv : Bool) :
    RoundTrip.Statement (.qBur thresh msize inv) := by
  intro _
  simp [Sys2Proof.encode, decode, decodeQuant]

theorem RoundTrip.qSie (thresh msize : Byte) (inv : Bool) :
    RoundTrip.Statement (.qSie thresh msize inv) := by
  intro _
  simp [Sys2Proof.encode, decode, decodeQuant]

theorem RoundTrip.qSil (thresh msize : Byte) (inv : Bool) :
    RoundTrip.Statement (.qSil thresh msize inv) := by
  intro _
  simp [Sys2Proof.encode, decode, decodeQuant]

theorem RoundTrip.qFallback9 (thresh msize : Byte) (inv : Bool) :
    RoundTrip.Statement (.qFallback9 thresh msize inv) := by
  intro _
  simp [Sys2Proof.encode, decode, decodeQuant]

theorem RoundTrip.qFallbackAB (alg : Nibble) (thresh msize : Byte) (inv : Bool) :
    RoundTrip.Statement (.qFallbackAB alg thresh msize inv) := by
  intro h
  simp [Sys2Proof.encode, decode, decodeQuant_rowAB alg h]

theorem RoundTrip.qFallbackCF (alg : Nibble) (thresh msize : Byte) (inv : Bool) :
    RoundTrip.Statement (.qFallbackCF alg thresh msize inv) := by
  intro h
  simp [Sys2Proof.encode, decode, decodeQuant_rowCF alg h]

theorem RoundTrip.pack (alg : Nibble) (thresh msize : Byte) (inv : Bool) :
    RoundTrip.Statement (.pack alg thresh msize inv) := by
  intro _
  simp [Sys2Proof.encode, decode]

theorem RoundTrip.frame (alg : Nibble) (thresh msize : Byte) (inv : Bool) :
    RoundTrip.Statement (.frame alg thresh msize inv) := by
  intro _
  simp [Sys2Proof.encode, decode]

theorem RoundTrip.encode (alg : Nibble) (thresh msize : Byte) (inv : Bool) :
    RoundTrip.Statement (.encode alg thresh msize inv) := by
  intro _
  simp [Sys2Proof.encode, decode]

theorem RoundTrip.convert (alg : Nibble) (thresh msize : Byte) (inv : Bool) :
    RoundTrip.Statement (.convert alg thresh msize inv) := by
  intro _
  simp [Sys2Proof.encode, decode]

theorem RoundTrip.clr (alg : Nibble) (thresh msize : Byte) (inv : Bool) :
    RoundTrip.Statement (.clr alg thresh msize inv) := by
  intro _
  simp [Sys2Proof.encode, decode]

end Sys2Proof.Laws
end

