-- ==== Sys2Proof/Laws/Step.lean ====
section
/-! SUPPORT. What a step can do, said once: a later proof about every step takes its cases from `stepIn_cases` (or `step_cases`, at
the default configuration) and unfolds nothing. -/

namespace Sys2Proof.Machine

theorem requestOf_decodeQuant (alg : Nibble) (t m : Byte) (inv : Bool) :
    requestOf (decodeQuant alg t m inv) = some (.quant alg t m inv) ∧
      encode (decodeQuant alg t m inv) = commandWord 0x1 alg t m inv ∧
      quantFields (decodeQuant alg t m inv) = some (alg, t, m, inv) := by
  have h : ∀ a : Nibble, a = 0#4 ∨ a = 1#4 ∨ a = 2#4 ∨ a = 3#4 ∨ a = 4#4 ∨ a = 5#4 ∨ a = 6#4 ∨ a = 7#4 ∨ a = 8#4 ∨
      a = 9#4 ∨ a = 10#4 ∨ a = 11#4 ∨ a = 12#4 ∨ a = 13#4 ∨ a = 14#4 ∨ a = 15#4 := by decide
  rcases h alg with rfl | rfl | rfl | rfl | rfl | rfl | rfl | rfl | rfl | rfl | rfl | rfl | rfl | rfl | rfl | rfl <;>
    exact ⟨rfl, rfl, rfl⟩

theorem clear_of_idle {s : State} (h : s.status.busy = false) :
    clear s = { s with cmd := 0, status := .zero, width := 0, height := 0, plen := 0, flen := 0 } := by
  simp [clear, h]

/-- What the meaning of a command can do. -/
theorem execIn_cases (c : Config) (i : Instr) (s : State) : ∃ t, execIn c i s = .next t ∧
    (t = s ∨
      (s.status.busy = false ∧ ∃ e, t = reject (encode i) e s) ∨
      (s.status.busy = false ∧ t = { s with cmd := 0, status := .zero, width := 0, height := 0, plen := 0, flen := 0 }) ∨
      (s.status.busy = false ∧ ∃ r, requestOf i = some r ∧ rejection c r s = none ∧
        t = accept (encode i) r s)) := by
  rcases requestOf_cases i with ⟨r, h⟩ | ⟨_, _, _, _, rfl⟩
  · refine ⟨_, execIn_eq_issue c h s, ?_⟩
    rcases issue_cases c (encode i) r s with ⟨-, hs⟩ | ⟨hb, e, -, hs⟩ | ⟨hb, hr, hs⟩
    · exact .inl hs
    · exact .inr (.inl ⟨hb, e, hs⟩)
    · exact .inr (.inr (.inr ⟨hb, r, h, hr, hs⟩))
  · refine ⟨_, execIn_clr c _ _ _ _ s, ?_⟩
    cases hb : s.status.busy with
    | true => exact .inl (by simp [clear, hb])
    | false => exact .inr (.inr (.inl ⟨rfl, clear_of_idle hb⟩))

theorem exec_cases (i : Instr) (s : State) : ∃ t, exec i s = .next t ∧
    (t = s ∨
      (s.status.busy = false ∧ ∃ e, t = reject (encode i) e s) ∨
      (s.status.busy = false ∧ t = { s with cmd := 0, status := .zero, width := 0, height := 0, plen := 0, flen := 0 }) ∨
      (s.status.busy = false ∧ ∃ r, requestOf i = some r ∧ rejection defaultConfig r s = none ∧
        t = accept (encode i) r s)) := by
  rw [← execIn_default]
  exact execIn_cases defaultConfig i s

/-- The ways a step under `c` answers a next state from `s`; `s₀` is `s` with its next input taken off. -/
inductive StepCase (c : Config) (s s₀ : State) : State → Prop where
  /-- nothing happens: an ignored write, or an idle block with no input -/
  | ignored : StepCase c s s₀ s₀
  /-- a word is rejected -/
  | rejected (w word : Word) (e : Cause) : s.status.busy = false → s.inputs.head? = some (.regWrite 0 w) →
      StepCase c s s₀ (reject word e s₀)
  /-- `CLR` -/
  | cleared (w : Word) : s.status.busy = false → s.inputs.head? = some (.regWrite 0 w) → w.extractLsb' 28 4 = 0xF#4 →
      StepCase c s s₀ { s₀ with cmd := 0, status := .zero, width := 0, height := 0, plen := 0, flen := 0 }
  /-- a command is accepted -/
  | accepted (w word : Word) (r : Request) : s.status.busy = false → s.inputs.head? = some (.regWrite 0 w) →
      rejection c r s₀ = none → StepCase c s s₀ (accept word r s₀)
  /-- `WIDTH` or `HEIGHT` is written -/
  | resized (w h : Half) : s.status.busy = false → StepCase c s s₀ { s₀ with width := w, height := h }
  /-- the host reads -/
  | readOut (v : Word) (n : Nat) : StepCase c s s₀ { s₀ with rdata := v, draws := n }
  /-- the host writes a byte -/
  | stored (sp : Space) (index : Nat) (v : Byte) : s.status.busy = false → index < capacity c sp →
      sp ≠ .frame → s.inputs.head? = some (.bufWrite sp index v) → StepCase c s s₀ (s₀.writeBytes sp index [v])
  /-- the scan advances -/
  | scanned (n : Nat) : StepCase c s s₀ (scanMany c n s₀)
  /-- the command completes -/
  | completed : s.status.busy = true → s.inputs = [] → StepCase c s s₀ (complete c s₀)
  /-- reset arrives -/
  | wasReset : s.inputs.head? = some .reset → StepCase c s s₀ (resetBlock s₀)

/-- A word that the decoder reads as `CLR` has `OP` 0xF (R81). -/
theorem opField_of_decode_clr {w : Word} {alg : Nibble} {t m : Byte} {inv : Bool}
    (h : decode w = .ok (.clr alg t m inv)) : opField w = 0xF#4 := by
  unfold decode at h
  split_ifs at h with _ h1 _ _ _ _ hF
  · exact absurd (congrArg quantFields (Except.ok.inj h)) (by rw [(requestOf_decodeQuant _ _ _ _).2.2]; nofun)
  all_goals first | exact hF | cases h

/-- What a step can do. -/
theorem stepIn_cases {c : Config} {s t : State} (h : stepIn c s = .next t) :
    StepCase c s { s with inputs := s.inputs.tail } t := by
  cases hi : s.inputs with
  | nil =>
    have hs : ({ s with inputs := [] } : State) = s := by rw [← hi]
    rw [stepIn_of_no_input c hi] at h
    obtain rfl := Host.Outcome.next.inj h
    rw [List.tail_nil, hs, finish]
    cases hb : s.status.busy with
    | false => exact .ignored
    | true =>
      rw [if_pos rfl]
      have := StepCase.completed (c := c) (s := s) (s₀ := s) hb hi
      exact this
  | cons x rest =>
    have hd : s.inputs.head? = some x := by rw [hi]; rfl
    rw [stepIn_of_input c hi] at h
    rw [List.tail_cons]
    cases x with
    | regWrite index v =>
      simp only [serve, hostRegWrite] at h
      split at h
      · rw [writeCommand] at h
        split at h
        · rename_i i hdec
          obtain ⟨t', ht, hc⟩ := execIn_cases c i { s with inputs := rest }
          obtain rfl := Host.Outcome.next.inj (ht.symm.trans h)
          rcases hc with rfl | ⟨hb, e, rfl⟩ | ⟨hb, hc⟩ | ⟨hb, r, -, hr, rfl⟩
          · exact .ignored
          · exact .rejected v _ e hb hd
          · rcases requestOf_cases i with ⟨r, hr⟩ | ⟨_, _, _, _, rfl⟩
            · rw [execIn_eq_issue c hr] at ht
              obtain rfl := Host.Outcome.next.inj ht
              rcases issue_cases c (encode i) r { s with inputs := rest } with
                ⟨hb', -⟩ | ⟨-, e, -, hs⟩ | ⟨-, hr', hs⟩
              · exact absurd (hb.symm.trans hb') (by decide)
              · rw [hs]
                exact .rejected v _ e hb hd
              · rw [hs]
                exact .accepted v _ r hb hd hr'
            · rw [hc]
              exact .cleared v hb hd (opField_of_decode_clr hdec)
          · exact .accepted v _ r hb hd hr
        · obtain rfl := Host.Outcome.next.inj h
          cases hb : s.status.busy with
          | true =>
            rw [issueIllegal, if_pos hb]
            exact .ignored
          | false =>
            rw [issueIllegal, if_neg (by simp [hb])]
            exact .rejected v _ _ hb hd
      · obtain rfl := Host.Outcome.next.inj h
        cases hb : s.status.busy with
        | true =>
          rw [writeWidth, if_pos hb]
          exact .ignored
        | false =>
          rw [writeWidth, if_neg (by simp [hb])]
          exact .resized _ _ hb
      · obtain rfl := Host.Outcome.next.inj h
        cases hb : s.status.busy with
        | true =>
          rw [writeHeight, if_pos hb]
          exact .ignored
        | false =>
          rw [writeHeight, if_neg (by simp [hb])]
          exact .resized _ _ hb
      · obtain rfl := Host.Outcome.next.inj h
        exact .ignored
    | regRead index =>
      obtain rfl := Host.Outcome.next.inj h
      exact .readOut _ _
    | bufWrite sp index v =>
      simp only [serve, hostBufWrite] at h
      split_ifs at h with hc hg
      · obtain rfl := Host.Outcome.next.inj h
        exact .ignored
      · obtain rfl := Host.Outcome.next.inj h
        simp only [Bool.or_eq_true, Bool.not_eq_true', not_or, Bool.not_eq_true, Bool.not_eq_false] at hg
        exact .stored sp index v hg.1 (by omega) (by rintro rfl; exact absurd hg.2 (by decide)) hd
    | bufRead sp index =>
      simp only [serve, hostBufRead] at h
      split_ifs at h
      · obtain rfl := Host.Outcome.next.inj h
        exact .readOut _ _
      · obtain rfl := Host.Outcome.next.inj h
        exact .readOut _ _
    | scan n =>
      obtain rfl := Host.Outcome.next.inj h
      exact .scanned n
    | reset =>
      obtain rfl := Host.Outcome.next.inj h
      exact .wasReset hd

theorem step_cases {s t : State} (h : step s = .next t) :
    StepCase defaultConfig s { s with inputs := s.inputs.tail } t := stepIn_cases h

end Sys2Proof.Machine
end

