-- ==== Sys2Proof/Tests/Slice0.lean ====
section
/-! SUPPORT. Tests of the model against words and vectors of the spec, and for every statement with hypotheses a witness that
meets them. Expected values come from 30_encoding.md and 95_test_vectors.md, as each comment says. -/

namespace Sys2Proof.Tests

open Sys2Proof Sys2Proof.Machine

/-! ### Ill-formed terms (the two checks of WellFormed) -/

theorem test_wellFormed_refuses_AB_below : (Instr.qFallbackAB 9 0 0 false).wellFormed = false := by decide
theorem test_wellFormed_refuses_AB_above : (Instr.qFallbackAB 12 0 0 false).wellFormed = false := by decide
theorem test_wellFormed_refuses_CF_below : (Instr.qFallbackCF 11 0 0 false).wellFormed = false := by decide
theorem test_wellFormed_refuses_CF_zero : (Instr.qFallbackCF 0 0 0 false).wellFormed = false := by decide

/-! ### One word per command, written out from R80: OP, ALG, THRESH, MSIZE, seven zeros, INVERT -/

theorem test_decode_qFlat : decode 0b0001_0000_10010110_00000100_0000000_1#32 = .ok (.qFlat 150 4 true) := by decide
theorem test_decode_qFs : decode 0b0001_0001_10010110_00000100_0000000_1#32 = .ok (.qFs 150 4 true) := by decide
theorem test_decode_qBayer : decode 0b0001_0010_10010110_00000100_0000000_1#32 = .ok (.qBayer 150 4 true) := by decide
theorem test_decode_qAtk : decode 0b0001_0011_10010110_00000100_0000000_1#32 = .ok (.qAtk 150 4 true) := by decide
theorem test_decode_qJar : decode 0b0001_0100_10010110_00000100_0000000_1#32 = .ok (.qJar 150 4 true) := by decide
theorem test_decode_qStu : decode 0b0001_0101_10010110_00000100_0000000_1#32 = .ok (.qStu 150 4 true) := by decide
theorem test_decode_qBur : decode 0b0001_0110_10010110_00000100_0000000_1#32 = .ok (.qBur 150 4 true) := by decide
theorem test_decode_qSie : decode 0b0001_0111_10010110_00000100_0000000_1#32 = .ok (.qSie 150 4 true) := by decide
theorem test_decode_qSil : decode 0b0001_1000_10010110_00000100_0000000_1#32 = .ok (.qSil 150 4 true) := by decide
theorem test_decode_qFallback9 : decode 0b0001_1001_10010110_00000100_0000000_1#32 = .ok (.qFallback9 150 4 true) := by decide
theorem test_decode_qFallbackAB : decode 0b0001_1011_10010110_00000100_0000000_1#32 = .ok (.qFallbackAB 11 150 4 true) := by decide
theorem test_decode_qFallbackCF : decode 0b0001_1110_10010110_00000100_0000000_1#32 = .ok (.qFallbackCF 14 150 4 true) := by decide
theorem test_decode_pack : decode 0b0010_0110_10010110_00000100_0000000_1#32 = .ok (.pack 6 150 4 true) := by decide
theorem test_decode_frame : decode 0b0011_0110_10010110_00000100_0000000_1#32 = .ok (.frame 6 150 4 true) := by decide
theorem test_decode_encode : decode 0b0100_0110_10010110_00000100_0000000_1#32 = .ok (.encode 6 150 4 true) := by decide
theorem test_decode_convert : decode 0b0101_0110_10010110_00000100_0000000_1#32 = .ok (.convert 6 150 4 true) := by decide
theorem test_decode_clr : decode 0b1111_0110_10010110_00000100_0000000_1#32 = .ok (.clr 6 150 4 true) := by decide

/-- Bit 7 and bit 1 are reserved (R85), and they are checked before `OP` (V-X13). -/
theorem test_decode_reserved_bits : decode 0x20000002#32 = .error .reservedBits ∧ decode 0x00000080#32 = .error .reservedBits := by
  decide
/-- The ends of the reserved ranges of `OP` (R89, V-X10, V-X11). -/
theorem test_decode_reserved_op : decode 0x00000000#32 = .error .reservedOp ∧ decode 0x60000000#32 = .error .reservedOp ∧
    decode 0xE0000000#32 = .error .reservedOp := by decide
/-- The table's numbering: bit 0 is the least significant bit of the word (R80). -/
theorem test_decodeTableWord : decodeTableWord 32 0x12800401 = some (.qBayer 128 4 true) := by decide

/-! ### Small states -/

/-- An idle block with this geometry and these RGBA pixels. -/
def raster (w h : Nat) (rgb : List (Nat × Nat × Nat)) : State :=
  { State.reset with
    width := BitVec.ofNat 16 w
    height := BitVec.ofNat 16 h
    pix := Memory.cells 0 (rgb.flatMap fun p => [BitVec.ofNat 8 p.1, BitVec.ofNat 8 p.2.1, BitVec.ofNat 8 p.2.2, 0x5A#8]) }

/-- An idle block with this geometry and grey pixels. -/
def grey (w h : Nat) (gs : List Nat) : State := raster w h (gs.map fun g => (g, g, g))

/-- An idle block with this geometry and this `MONO`. -/
def monoRaster (w h : Nat) (bs : List Byte) : State :=
  { State.reset with width := BitVec.ofNat 16 w, height := BitVec.ofNat 16 h, mono := Memory.cells 0 bs }

/-- The block running a job. -/
def running (j : Job) (s : State) : State :=
  { s with status := Status.accepted false, latch := some j, seq := { phase := j.firstPhase, k := 0 }, work := initialWork j s }

/-- What is read from the next state, if the outcome is one. -/
def after {α : Type} (o : Host.Outcome State Fault Refusal) (f : State → α) : Option α :=
  match o with
  | .next t => some (f t)
  | .fault _ => none
  | .refused _ => none

def monoBytes (t : State) : List Nat := t.mono.map fun cell => cell.2.toNat
def payloadBytes (t : State) : List Nat := t.payload.map fun cell => cell.2.toNat
def statusAndLatch (t : State) : Word × Option Job := (t.status.toWord, t.latch)
def frameBytesAt (is : List Nat) (t : State) : List Byte := is.map (t.readByte .frame)

/-- The quantiser job of a raster. -/
def quantJob (w h : Nat) (a : Algorithm) (t : Byte) : Job := .quant w h { algorithm := a, thresh := t, inv := false }

/-! ### One acceptance and one completion per command -/

def flatPixels : List (Nat × Nat × Nat) :=
  [(102, 102, 102), (103, 103, 103), (103, 102, 101), (101, 102, 103), (255, 0, 0), (0, 255, 0), (0, 0, 255), (255, 255, 255)]

/-- V-F3: `THRESH` and `MSIZE` are not read; STATUS 0x00000001 while busy. -/
theorem test_qFlat_accepted : after (exec (.qFlat 0xFF 8 false) (raster 8 1 flatPixels)) statusAndLatch
    = some (0x00000001#32, some (quantJob 8 1 .flat 0xFF)) := by decide +kernel
/-- V-F1. -/
theorem test_qFlat_completed : after (step (running (quantJob 8 1 .flat 0) (raster 8 1 flatPixels))) monoBytes
    = some [0, 255, 255, 0, 0, 255, 0, 255] := by decide +kernel
/-- V-F2, the complement. -/
theorem test_invert_completed :
    after (step (running (.quant 8 1 ⟨.flat, 0, true⟩) (raster 8 1 flatPixels))) monoBytes
      = some [255, 0, 0, 255, 255, 0, 255, 0] := by decide +kernel
/-- V-F4 and its neighbours: ALG 9, 11 and 12 run as `Q.FLAT` with UNSUP, STATUS 0x00000009 while busy. -/
theorem test_qFallback9_accepted : after (exec (.qFallback9 0 3 false) (raster 8 1 flatPixels)) statusAndLatch
    = some (0x00000009#32, some (quantJob 8 1 .flat 0)) := by decide +kernel
theorem test_qFallbackAB_accepted : after (exec (.qFallbackAB 11 0 0 false) (raster 8 1 flatPixels)) statusAndLatch
    = some (0x00000009#32, some (quantJob 8 1 .flat 0)) := by decide +kernel
theorem test_qFallbackCF_accepted : after (exec (.qFallbackCF 12 128 0 false) (raster 8 1 flatPixels)) statusAndLatch
    = some (0x00000009#32, some (quantJob 8 1 .flat 128)) := by decide +kernel
/-- V-X19: an unsupported matrix size runs with `N = 4` and UNSUP. -/
theorem test_qBayer_accepted : after (exec (.qBayer 128 0 false) (grey 4 4 [])) statusAndLatch
    = some (0x00000009#32, some (quantJob 4 4 (.ordered .n4) 128)) := by decide +kernel
/-- V-B4: a tie is white. -/
theorem test_qBayer_completed :
    after (step (running (quantJob 4 2 (.ordered .n2) 101) (grey 4 2 (List.replicate 8 24)))) monoBytes
      = some [0, 255, 0, 255, 255, 0, 255, 0] := by decide +kernel
/-- V-B10: size 4 on a ramp, two rows. -/
theorem test_qBayer4_completed :
    after (step (running (quantJob 8 2 (.ordered .n4) 128)
      (grey 8 2 [0, 36, 73, 109, 146, 182, 219, 255, 0, 36, 73, 109, 146, 182, 219, 255]))) monoBytes
      = some [0, 0, 0, 255, 0, 255, 255, 255, 0, 0, 255, 255, 255, 255, 255, 255] := by decide +kernel

/-- The raster of V-E5. -/
def rampRaster : State :=
  grey 8 4 [0, 36, 72, 108, 144, 180, 216, 252, 5, 41, 77, 113, 149, 185, 221, 1, 10, 46, 82, 118, 154, 190, 226, 6,
    15, 51, 87, 123, 159, 195, 231, 11]

/-- V-X18: `MSIZE` is not read by an error-diffusion command. -/
theorem test_qFs_accepted : after (exec (.qFs 128 3 false) rampRaster) statusAndLatch
    = some (0x00000001#32, some (quantJob 8 4 (.diffusion .fs) 128)) := by decide +kernel
/-- V-E5. -/
theorem test_qFs_completed :
    after (step (running (quantJob 8 4 (.diffusion .fs) 128) rampRaster)) monoBytes
      = some [0, 0, 0, 255, 0, 255, 255, 255, 0, 0, 0, 255, 0, 255, 255, 0, 0, 0, 255, 0, 255, 255, 255, 0, 0, 0, 0, 255, 0, 255, 255, 0] := by
  decide +kernel
theorem test_qAtk_accepted : after (exec (.qAtk 128 0 false) rampRaster) statusAndLatch
    = some (0x00000001#32, some (quantJob 8 4 (.diffusion .atk) 128)) := by decide +kernel
/-- V-E5. -/
theorem test_qAtk_completed :
    after (step (running (quantJob 8 4 (.diffusion .atk) 128) rampRaster)) monoBytes
      = some [0, 0, 0, 0, 255, 255, 255, 255, 0, 0, 0, 255, 255, 255, 255, 0, 0, 0, 0, 255, 0, 255, 255, 0, 0, 0, 0, 255, 255, 255, 255, 0] := by
  decide +kernel
theorem test_qJar_accepted : after (exec (.qJar 128 0 false) rampRaster) statusAndLatch
    = some (0x00000001#32, some (quantJob 8 4 (.diffusion .jar) 128)) := by decide +kernel
/-- V-E5. -/
theorem test_qJar_completed :
    after (step (running (quantJob 8 4 (.diffusion .jar) 128) rampRaster)) monoBytes
      = some [0, 0, 0, 0, 255, 255, 255, 255, 0, 0, 0, 255, 255, 255, 255, 0, 0, 0, 0, 255, 0, 255, 255, 0, 0, 0, 255, 0, 255, 255, 255, 0] := by
  decide +kernel
theorem test_qStu_accepted : after (exec (.qStu 128 0 false) rampRaster) statusAndLatch
    = some (0x00000001#32, some (quantJob 8 4 (.diffusion .stu) 128)) := by decide +kernel
/-- V-E5. -/
theorem test_qStu_completed :
    after (step (running (quantJob 8 4 (.diffusion .stu) 128) rampRaster)) monoBytes
      = some [0, 0, 0, 0, 255, 255, 255, 255, 0, 0, 0, 255, 255, 255, 255, 0, 0, 0, 0, 255, 0, 255, 255, 0, 0, 0, 255, 0, 255, 0, 255, 0] := by
  decide +kernel
theorem test_qBur_accepted : after (exec (.qBur 128 0 false) rampRaster) statusAndLatch
    = some (0x00000001#32, some (quantJob 8 4 (.diffusion .bur) 128)) := by decide +kernel
/-- V-E5. -/
theorem test_qBur_completed :
    after (step (running (quantJob 8 4 (.diffusion .bur) 128) rampRaster)) monoBytes
      = some [0, 0, 0, 255, 0, 255, 255, 255, 0, 0, 0, 255, 255, 255, 255, 0, 0, 0, 0, 0, 255, 0, 255, 0, 0, 0, 255, 255, 255, 255, 255, 0] := by
  decide +kernel
theorem test_qSie_accepted : after (exec (.qSie 128 0 false) rampRaster) statusAndLatch
    = some (0x00000001#32, some (quantJob 8 4 (.diffusion .sie) 128)) := by decide +kernel
/-- V-E5. -/
theorem test_qSie_completed :
    after (step (running (quantJob 8 4 (.diffusion .sie) 128) rampRaster)) monoBytes
      = some [0, 0, 0, 0, 255, 255, 255, 255, 0, 0, 0, 255, 255, 255, 255, 0, 0, 0, 0, 255, 0, 0, 255, 0, 0, 0, 255, 0, 255, 255, 255, 0] := by
  decide +kernel
theorem test_qSil_accepted : after (exec (.qSil 128 0 false) rampRaster) statusAndLatch
    = some (0x00000001#32, some (quantJob 8 4 (.diffusion .sil) 128)) := by decide +kernel
/-- V-E5. -/
theorem test_qSil_completed :
    after (step (running (quantJob 8 4 (.diffusion .sil) 128) rampRaster)) monoBytes
      = some [0, 0, 0, 255, 0, 255, 255, 255, 0, 0, 0, 255, 0, 255, 255, 0, 0, 0, 255, 0, 255, 255, 255, 0, 0, 0, 0, 255, 0, 255, 255, 0] := by
  decide +kernel
/-- V-E6, V-E7, V-E8: a tie is white, `T = 0` leaves an error of -255, a working value may pass 255. -/
theorem test_diffusion_edges :
    after (step (running (quantJob 2 1 (.diffusion .fs) 128) (grey 2 1 [128, 0]))) monoBytes = some [255, 0] ∧
    after (step (running (quantJob 3 1 (.diffusion .fs) 0) (grey 3 1 [0, 0, 0]))) monoBytes = some [255, 0, 0] ∧
    after (step (running (quantJob 2 1 (.diffusion .fs) 255) (grey 2 1 [254, 254]))) monoBytes = some [0, 255] := by
  decide +kernel
/-- V-E2: the working value of pixel 1 once the scan has processed pixel 0 (R31, R33). -/
theorem test_scan_one :
    (scanOne defaultConfig (running (quantJob 3 2 (.diffusion .fs) 128) (grey 3 2 (List.replicate 6 100)))).work
      = [100, 575 / 4, 100, 525 / 4, 425 / 4, 100] := by decide +kernel

/-- V-P10's geometry: `PACK` reads no field. -/
theorem test_pack_accepted : after (exec (.pack 15 255 255 true) (monoRaster 16 1 [])) statusAndLatch
    = some (0x00000001#32, some (.pack 16 1)) := by decide +kernel
/-- V-P5, V-P9, V-P7: the cut above 128, the visiting order, the pad bits. -/
theorem test_pack_completed :
    after (step (running (.pack 1 8) (monoRaster 1 8 [0xFF, 0x80, 0x81, 0x7F, 0x00, 0x01, 0xFE, 0x82]))) payloadBytes
      = some [0xA3] ∧
    after (step (running (.pack 4 4) (monoRaster 4 4 [0, 255, 255, 0, 0, 0, 255, 0, 255, 255, 0, 0, 0, 0, 0, 0]))) payloadBytes
      = some [0x0C, 0xA2] ∧
    after (step (running (.pack 5 2) (monoRaster 5 2 [255, 255, 255, 255, 255, 255, 255, 255, 255, 0]))) payloadBytes
      = some [0xBF, 0xC0] := by decide +kernel

/-- V-X8, V-X9: `FRAME` with another `PLEN` is rejected. -/
theorem test_frame_rejected : after (exec (.frame 0 0 0 false) { State.reset with plen := 1 }) statusAndLatch
    = some (0x00000414#32, none) := by decide +kernel
/-- V-R3, at three of the payload places it names. -/
theorem test_frame_completed :
    after (step (running .frame { State.reset with
      plen := 2880, payload := [(0, 0x00), (255, 0xFF), (256, 0x00)] }))
      (fun t => (t.flen, frameBytesAt [0, 1, 2, 3, 4, 5, 6, 7, 8, 9, 10, 265, 266, 2890, 2891] t))
      = some (2892#32, [0xDD, 0x00, 0x01, 0x02, 0x0B, 0x44, 0x00, 0x0C, 0x01, 0x00, 0x00, 0xFF, 0x00, 0x00, 0xDD]) := by
  decide +kernel

/-- V-X22's geometry: accepted, with `W` and `H` latched. -/
theorem test_encode_accepted : after (exec (.encode 0 0 0 false) (monoRaster 240 96 [])) statusAndLatch
    = some (0x00000001#32, some (.encode 240 96)) := by decide +kernel
/-- V-P6 and R188: the frame holds the payload just packed. -/
theorem test_encode_completed :
    after (step (running (.encode 3 1) (monoRaster 3 1 [0xFF, 0x00, 0xFF])))
      (fun t => (t.plen, t.flen, payloadBytes t, frameBytesAt [9, 10, 2891] t))
      = some (1#32, 2892#32, [0xA0], [0x00, 0xA0, 0xDD]) := by decide +kernel

/-- P4 of section 9: `CONVERT` with ALG 11 and INV 1 runs with the flat threshold, STATUS 0x00000009 while busy. -/
theorem test_convert_accepted : after (exec (.convert 11 0 0 true) (raster 240 96 [])) statusAndLatch
    = some (0x00000009#32, some (.convert 240 96 ⟨.flat, 0, true⟩)) := by decide +kernel
/-- P1 of section 9: the eight pixels under `Q.BAYER T=128 N=2`, packed to 99 and framed. -/
theorem test_convert_completed :
    after (step (running (.convert 4 2 ⟨.ordered .n2, 128, false⟩) (raster 4 2
      [(255, 0, 0), (0, 255, 0), (0, 0, 255), (255, 255, 255), (200, 100, 50), (128, 128, 128), (64, 64, 64), (0, 0, 0)])))
      (fun t => (monoBytes t, payloadBytes t, frameBytesAt [10, 2890] t))
      = some ([0, 255, 0, 255, 255, 0, 255, 0], [0x99], [0x99, 0x00]) := by decide +kernel

/-- V-X21. -/
theorem test_clr : after (exec (.clr 0 0 0 false) { monoRaster 240 96 [7] with
      cmd := 0x40000000, status := Status.rejected .targetMismatch, plen := 2880, flen := 2892 })
      (fun t => ([0, 1, 2, 3, 4, 5, 6].map t.readReg, monoBytes t))
    = some ([0, 0, 0, 0, 0, 0, 0], [7]) := by decide +kernel
/-- V-X20: a `CLR` while busy is ignored. -/
theorem test_clr_while_busy : after (exec (.clr 0 0 0 false) (running .frame { State.reset with cmd := 0x11800000 }))
    (fun t => (t.cmd, t.status.toWord)) = some (0x11800000#32, 0x00000001#32) := by decide +kernel

/-! ### Rejections (V-X1 to V-X9, V-X14, V-X15 to V-X17) -/

/-- The STATUS after the host writes a word to `CMD` of an idle block with these parameters and this geometry. -/
def statusAfterIn (c : Config) (w h : Nat) (word : Word) : Option Word :=
  after (stepIn c { grey w h [] with inputs := [.regWrite 0 word] }) (fun t => t.status.toWord)

/-- The same at the default parameters, through `step`. -/
def statusAfter (w h : Nat) (word : Word) : Option Word :=
  after (step { grey w h [] with inputs := [.regWrite 0 word] }) (fun t => t.status.toWord)

theorem test_rejections :
    statusAfter 0 0 0x11800000 = some 0x00000114 ∧ statusAfter 0 96 0x20000000 = some 0x00000114 ∧
    statusAfter 241 96 0x20000000 = some 0x00000214 ∧ statusAfter 5 2 0x40000000 = some 0x00000314 ∧
    statusAfter 96 240 0x40000000 = some 0x00000414 ∧ statusAfter 8 8 0x51800000 = some 0x00000414 ∧
    statusAfter 241 97 0x40000000 = some 0x00000214 ∧ statusAfter 4 4 0xF0000004 = some 0x00000234 ∧
    statusAfter 0 0 0x1F000000 = some 0x00000114 := by decide +kernel

/-- The configuration with `STRICT_PARAMS`. -/
def strictConfig : Config := { defaultConfig with strictParams := true }

/-- A configuration whose `MAXPIX` is not the default. -/
def largeConfig : Config := { defaultConfig with maxPix := 30000, maxPix_ge := by decide }

/-- V-X15, V-X17, and R214's MATRIX_SIZE. -/
theorem test_strict_rejections :
    statusAfterIn strictConfig 0 0 0x1F000000 = some 0x00000124 ∧
    statusAfterIn strictConfig 4 4 0x19000300 = some 0x00000124 ∧
    statusAfterIn strictConfig 8 2 0x12800500 = some 0x00000224 := by decide +kernel

/-- R7, R216 line 8: 25600 pixels, more than the default `MAXPIX` and less than this one; 30001 are too many. -/
theorem test_capacity_is_a_parameter :
    statusAfter 160 160 0x20000000 = some 0x00000214 ∧ statusAfterIn largeConfig 160 160 0x20000000 = some 0x00000001 ∧
    statusAfterIn largeConfig 30001 1 0x20000000 = some 0x00000214 := by decide +kernel

/-- V-L3 to V-L5, V-L10. -/
theorem test_luma : luma 255 0 0 = 76245 ∧ luma 0 255 0 = 149685 ∧ luma 0 0 255 = 29070 ∧ luma 200 100 50 = 124200 := by decide

/-! ### Witnesses: for every statement with hypotheses, a state and operands that meet all of them -/

/-- An idle block with a 3 by 2 grey raster. -/
def small : State := grey 3 2 (List.replicate 6 100)

/-- An idle block with the printer's geometry and a payload length of 2880. -/
def page : State := { State.reset with width := 240, height := 96, plen := 2880 }

/-- An idle block whose raster is as large as the capacity. -/
def full : State := { State.reset with width := 23040, height := 1 }

/-- A block running `Q.FS` on `small`. -/
def busySmall : State := running (quantJob 3 2 (.diffusion .fs) 128) small

/-- A block with the given inputs. -/
def given (s : State) (xs : List Input) : State := { s with inputs := xs }

theorem small_ready : ReadyForRaster small := by unfold ReadyForRaster; decide
theorem page_ready : ReadyForFrame page := by unfold ReadyForFrame; decide
theorem full_ready : ReadyForRaster full := by unfold ReadyForRaster; decide
theorem page_raster : ReadyForRaster page := page_ready.raster

/-- A 1 by 1 raster of one grey. -/
def dot (g : Nat) : State := grey 1 1 [g]
theorem dot_ready : ReadyForRaster (dot 0) ∧ ReadyForRaster (dot 255) := by unfold ReadyForRaster; decide

/-- The whole page white. -/
def whitePage : State := page.writeBytes .pix 0 (List.replicate 92160 0xFF)

theorem whitePage_ready : ReadyForFrame whitePage := by
  unfold ReadyForFrame whitePage
  rw [State.writeBytes_status, State.writeBytes_width, State.writeBytes_height]
  exact page_ready

theorem whitePage_white (p : Nat) (h : p < 23040) : whitePage.luma1000 p = 255000 := by
  have hb : ∀ i, i < 92160 → whitePage.readByte .pix i = 0xFF#8 := fun i hi => by
    have := State.readByte_writeBytes_in page .pix 0 (List.replicate 92160 0xFF#8) i 0xFF#8
      (by rw [List.getElem?_replicate, if_pos hi])
    rwa [Nat.zero_add] at this
  rw [State.luma1000, hb _ (by omega), hb _ (by omega), hb _ (by omega)]
  rfl

theorem witness_DecodeReadsBackEveryCommand :
    (Instr.qFallbackAB 10 0 0 false).wellFormed = true ∧ (Instr.qFallbackAB 11 255 255 true).wellFormed = true ∧
    (Instr.qFallbackCF 12 0 0 false).wellFormed = true ∧ (Instr.qFallbackCF 15 0 0 false).wellFormed = true ∧
    (Instr.clr 15 255 255 true).wellFormed = true := by decide

theorem witness_DecodedWordIsItsCommandsWord : decode 0x1FFFFF01#32 = .ok (.qFallbackCF 15 255 255 true) ∧
    decode 0x1A000000#32 = .ok (.qFallbackAB 10 0 0 false) := by decide

theorem witness_OpcodeTableRowsAgreeWithDecoder :
    decode 0x1BFFFF01#32 = .ok (.qFallbackAB 11 255 255 true) ∧ SelectsRow 0x1BFFFF01#32 (.qFallbackAB 10 0 0 false) ∧
    (∀ i, ¬ SelectsRow 0x60000000#32 i) ∧ (∀ i, ¬ SelectsRow 0xE0000000#32 i) ∧ (∀ i, ¬ SelectsRow 0x10000080#32 i) := by
  refine ⟨by decide, by unfold SelectsRow rowMask rowMatch; decide, fun i => ?_, fun i => ?_, fun i => ?_⟩ <;>
    cases i <;> simp only [SelectsRow, rowMask, rowMatch] <;> decide

theorem witness_StepRunsTheDecodedCommand :
    (given small [.regWrite 0 0x11800000, .scan 2]).inputs = .regWrite 0 0x11800000 :: [.scan 2] ∧
    decode 0x11800000#32 = .ok (.qFs 128 0 false) := by decide

theorem witness_EveryConfigurationRunsTheDecodedCommand :
    (given small [.regWrite 0 0x12800500, .scan 2]).inputs = .regWrite 0 0x12800500 :: [.scan 2] ∧
    decode 0x12800500#32 = .ok (.qBayer 128 5 false) := by decide

theorem witness_ReservedBitsRejectWhateverTheOperation :
    small.status.busy = false ∧ (given small [.regWrite 0 0xF0000002]).inputs = [.regWrite 0 0xF0000002] ∧
    (0xF0000002#32).extractLsb' 1 7 ≠ 0#7 ∧ (0x00000080#32).extractLsb' 1 7 ≠ 0#7 := by decide

theorem witness_ReservedOperationsAreRejected :
    (given small [.regWrite 0 0x6F000001]).status.busy = false ∧
    (given small [.regWrite 0 0x6F000001]).inputs = [.regWrite 0 0x6F000001] ∧
    ((0x6F000001#32).extractLsb' 1 7 = 0#7 ∧ 0x6#4 ≤ (0x6F000001#32).extractLsb' 28 4 ∧
      (0x6F000001#32).extractLsb' 28 4 ≤ 0xE#4) ∧
    ((0xEFFFFF01#32).extractLsb' 1 7 = 0#7 ∧ (0xEFFFFF01#32).extractLsb' 28 4 ≤ 0xE#4) ∧
    ((0x0FFFFF01#32).extractLsb' 1 7 = 0#7 ∧ (0x0FFFFF01#32).extractLsb' 28 4 = 0x0#4) := by decide

theorem witness_BusyBlockIgnoresCommandWrites :
    (given busySmall [.regWrite 0 0xF0000000]).status.busy = true ∧
    (given busySmall [.regWrite 0 0xF0000000]).inputs = [.regWrite 0 0xF0000000] := by decide

theorem witness_CommandWriteHasOneOfFourOutcomes :
    (given busySmall [.regWrite 0 0]).inputs = [.regWrite 0 0] ∧
    (given small [.regWrite 0 0xF0000000]).inputs = [.regWrite 0 0xF0000000] := by decide

theorem witness_RejectionChangesOnlyCmdAndStatus :
    small.status.busy = false ∧ (given small [.regWrite 0 0x40000000]).inputs = [.regWrite 0 0x40000000] ∧
    after (step (given small [.regWrite 0 0x40000000])) (fun t => t.status.err) = some true := by decide

/-- The clauses of the geometry checks: area 0, one pixel above the capacity, the capacity itself. -/
theorem witness_GeometryChecksOfQuantAndPack :
    (quantFields (.qSil 0 0 false)).isSome = true ∧ (grey 0 1 []).status.busy = false ∧ (grey 0 1 []).imageW = 0 ∧
    (grey 23041 1 []).imageW * (grey 23041 1 []).imageH = 23041 ∧ full.imageW * full.imageH = 23040 := by decide

theorem witness_GeometryChecksOfEncodeAndConvert :
    (grey 1 0 []).imageH = 0 ∧ (grey 23041 1 []).imageW * (grey 23041 1 []).imageH = 23041 ∧
    (grey 5 2 []).imageW * (grey 5 2 []).imageH % 8 ≠ 0 ∧
    ((grey 96 240 []).imageW * (grey 96 240 []).imageH % 8 = 0 ∧ (grey 96 240 []).imageW ≠ 240) ∧
    (page.status.busy = false ∧ page.imageW = 240 ∧ page.imageH = 96) := by decide

theorem witness_FrameChecksThePayloadLengthOnly :
    page.status.busy = false ∧ page.plen = 2880#32 ∧ small.status.busy = false ∧ small.plen ≠ 2880#32 := by decide

theorem witness_ChecksInOrderForEveryConfiguration :
    small.status.busy = false ∧ strictConfig.strictParams = true ∧ 8#4 < 9#4 ∧
    ((3#8 : Byte) ≠ 2#8 ∧ (3#8 : Byte) ≠ 4#8 ∧ (3#8 : Byte) ≠ 8#8) := by decide

theorem witness_FlatThresholdCompletes : ReadyForRaster full ∧ (10#4 = 10#4 ∨ 10#4 = 11#4) ∧ (11#4 = 10#4 ∨ 11#4 = 11#4) ∧
    12#4 ≤ 12#4 ∧ 12#4 ≤ 15#4 := ⟨full_ready, by decide⟩

theorem witness_BayerDitheringCompletes : ReadyForRaster small ∧
    ∀ m ∈ [0#8, 2#8, 3#8, 4#8, 8#8, 255#8], ∃ (n : MatrixSize) (unsup : Bool),
      (m = 2#8 ∧ n = .n2 ∧ unsup = false) ∨ (m = 4#8 ∧ n = .n4 ∧ unsup = false) ∨ (m = 8#8 ∧ n = .n8 ∧ unsup = false) ∨
        (m ≠ 2#8 ∧ m ≠ 4#8 ∧ m ≠ 8#8 ∧ n = .n4 ∧ unsup = true) := by
  refine ⟨small_ready, fun m hm => ?_⟩
  by_cases h2 : m = 2#8
  · exact ⟨.n2, false, .inl ⟨h2, rfl, rfl⟩⟩
  by_cases h4 : m = 4#8
  · exact ⟨.n4, false, .inr (.inl ⟨h4, rfl, rfl⟩)⟩
  by_cases h8 : m = 8#8
  · exact ⟨.n8, false, .inr (.inr (.inl ⟨h8, rfl, rfl⟩))⟩
  · exact ⟨.n4, true, .inr (.inr (.inr ⟨h2, h4, h8, rfl, rfl⟩))⟩

theorem witness_BayerMatricesFollowTheRecursion : (0 < 4 ∧ 3 < 4) ∧ (0 < 8 ∧ 7 < 8) := by decide

theorem witness_BayerTablesAndPermutation : 63 < MatrixSize.n8.toNat * MatrixSize.n8.toNat ∧
    3 < MatrixSize.n2.toNat * MatrixSize.n2.toNat := by decide

theorem witness_PrintedKernelsDiffuseTheError : ReadyForRaster small ∧ ReadyForRaster full := ⟨small_ready, full_ready⟩

theorem witness_PublishedKernelsDiffuseTheError : ReadyForRaster small ∧ ReadyForRaster full := ⟨small_ready, full_ready⟩

theorem witness_SequentialScanDiffusesForEveryConfiguration :
    ([100, 0, 255000, 3, 4, 5] : List Nat).length = 3 * 2 ∧ (0 : Nat) < 3 * 2 ∧ 5 < 3 * 2 := by decide

theorem witness_DecidedWorkingValuesAreFinal : ForwardKernel kernelFs ∧ (0 : Nat) ≤ 0 ∧ (3 : Nat) ≤ 6 := by
  unfold ForwardKernel
  decide

theorem witness_UniformRastersPassErrorDiffusion :
    quantFields (.qFs 1 0 true) = some (1, 1, 0, true) ∧ quantFields (.qSil 255 0 false) = some (8, 255, 0, false) ∧
    ((1#4 : Nibble) = 1#4 ∧ (8#4 : Nibble) = 8#4) ∧ 1 ≤ (1#8 : Byte).toNat ∧
    (ReadyForRaster (dot 0) ∧ ReadyForRaster (dot 255)) ∧
    (∀ p, p < (dot 0).imageW * (dot 0).imageH → (dot 0).luma1000 p = 0) ∧
    (∀ p, p < (dot 255).imageW * (dot 255).imageH → (dot 255).luma1000 p = 255000) := by
  refine ⟨rfl, rfl, ⟨rfl, rfl⟩, by decide, dot_ready, fun p hp => ?_, fun p hp => ?_⟩
  · obtain rfl : p = 0 := by simpa using (show p < 1 from hp)
    decide
  · obtain rfl : p = 0 := by simpa using (show p < 1 from hp)
    decide

theorem witness_EveryQuantiserWritesBlackOrWhite :
    (quantFields (.qFallbackCF 15 0 0 true)).isSome = true ∧ (quantFields (.qFlat 0 0 true)).isSome = true ∧
    ReadyForRaster small := ⟨rfl, rfl, small_ready⟩

/-- A witness for each outcome: the two strict rejections, the two geometries, acceptance at both capacities. -/
theorem witness_QuantRunsUnderEveryConfiguration :
    quantFields (.qFallback9 0 0 true) = some (9, 0, 0, true) ∧ quantFields (.qBayer 128 5 false) = some (2, 128, 5, false) ∧
    small.status.busy = false ∧ strictConfig.strictParams = true ∧ 8#4 < 9#4 ∧
    ((5#8 : Byte) ≠ 2#8 ∧ (5#8 : Byte) ≠ 4#8 ∧ (5#8 : Byte) ≠ 8#8) ∧ (grey 0 1 []).imageW = 0 ∧
    defaultConfig.maxPix < (grey 23041 1 []).imageW * (grey 23041 1 []).imageH ∧
    ¬ largeConfig.maxPix < (grey 30000 1 []).imageW * (grey 30000 1 []).imageH := by decide

theorem witness_InvertComplementsEveryQuantiser :
    quantFields (.qJar 7 9 false) = some (4, 7, 9, false) ∧ quantFields (.qJar 7 9 true) = some (4, 7, 9, true) ∧
    ReadyForRaster small := ⟨rfl, rfl, small_ready⟩

/-- `dot 0` with another A byte. -/
def dotOtherAlpha : State := { dot 0 with pix := Memory.cells 0 [0, 0, 0, 0xC3] }

theorem witness_QuantiserReadsOnlyTheColourBytes :
    (quantFields (.qStu 128 0 false)).isSome = true ∧ ReadyForRaster (dot 0) ∧ ReadyForRaster dotOtherAlpha ∧
    dotOtherAlpha.width = (dot 0).width ∧ dotOtherAlpha.height = (dot 0).height ∧ dotOtherAlpha ≠ dot 0 ∧
    (∀ p, p < (dot 0).imageW * (dot 0).imageH →
      dotOtherAlpha.readByte .pix (4 * p) = (dot 0).readByte .pix (4 * p) ∧
      dotOtherAlpha.readByte .pix (4 * p + 1) = (dot 0).readByte .pix (4 * p + 1) ∧
      dotOtherAlpha.readByte .pix (4 * p + 2) = (dot 0).readByte .pix (4 * p + 2)) := by
  refine ⟨rfl, dot_ready.1, dot_ready.1, rfl, rfl, by decide, fun p hp => ?_⟩
  obtain rfl : p = 0 := by simpa using (show p < 1 from hp)
  decide

theorem witness_PackCompletes : ReadyForRaster (monoRaster 1 1 [0xFF]) ∧ ReadyForRaster full :=
  ⟨by unfold ReadyForRaster; decide, full_ready⟩

/-- Two `MONO` bytes that differ and have the same bit (R91). -/
theorem witness_PackDependsOnMonoBitsOnly :
    ReadyForRaster (monoRaster 1 1 [0x81]) ∧ ReadyForRaster (monoRaster 1 1 [0xFF]) ∧
    (monoRaster 1 1 [0xFF]).width = (monoRaster 1 1 [0x81]).width ∧
    (monoRaster 1 1 [0xFF]).height = (monoRaster 1 1 [0x81]).height ∧
    (∀ p, p < (monoRaster 1 1 [0x81]).imageW * (monoRaster 1 1 [0x81]).imageH →
      (128 < ((monoRaster 1 1 [0xFF]).readByte .mono p).toNat ↔ 128 < ((monoRaster 1 1 [0x81]).readByte .mono p).toNat)) := by
  refine ⟨by unfold ReadyForRaster; decide, by unfold ReadyForRaster; decide, rfl, rfl, fun p hp => ?_⟩
  obtain rfl : p = 0 := by simpa using (show p < 1 from hp)
  decide

theorem witness_FrameCompletes : page.status.busy = false ∧ page.plen = 2880#32 := by decide

theorem witness_EncodeCompletes : ReadyForFrame page := page_ready

theorem witness_ConvertEqualsQuantThenEncode : ReadyForFrame page ∧ ReadyForFrame whitePage :=
  ⟨page_ready, whitePage_ready⟩

theorem witness_AllWhiteRasterConvertsToTheKnownFrame :
    ReadyForFrame whitePage ∧ ∀ p, p < 23040 → whitePage.luma1000 p = 255000 :=
  ⟨whitePage_ready, whitePage_white⟩

theorem witness_UnreadFieldsHaveNoEffect :
    ReadyForRaster small ∧ ReadyForFrame page ∧ page.plen = 2880#32 ∧
    ((Instr.qFs 128 0 false) = .qFs 128 0 false ∧ (Instr.qFs 128 255 false) = .qFs 128 255 false) ∧
    (10#4 = 10#4 ∨ 10#4 = 11#4) ∧ 12#4 ≤ 12#4 ∧ (8#4 < 9#4 ∧ 0#4 = 0#4 ∧ 8#4 ≠ 2#4) :=
  ⟨small_ready, page_ready, rfl, ⟨rfl, rfl⟩, by decide, by decide, by decide⟩

theorem witness_SameCommandTwiceGivesTheSameState : ReadyForFrame page ∧ page.plen = 2880#32 ∧
    ∀ alg t m inv, Instr.convert 2 128 4 false ≠ .clr alg t m inv := ⟨page_ready, rfl, fun _ _ _ _ => nofun⟩

theorem witness_ClrZeroesTheSixRegisters : page.status.busy = false ∧ busySmall.status.busy = true := ⟨rfl, rfl⟩

theorem witness_RegisterReadsReturnTheRegisters : (given small [.regRead 5]).inputs = [.regRead 5] ∧
    (given busySmall [.regRead 6]).inputs = [.regRead 6] := by decide

theorem witness_WidthAndHeightStoreTheirLowHalf :
    (given small [.regWrite 2 0xFFFF00F0]).inputs = [.regWrite 2 0xFFFF00F0] ∧
    (given busySmall [.regWrite 3 1]).inputs = [.regWrite 3 1] := by decide

theorem witness_ReadOnlyStateIgnoresHostWrites :
    (∀ i ∈ [1, 4, 5, 6], (given small [.regWrite i 9]).inputs = [.regWrite i 9]) ∧
    (given small [.bufWrite .frame 2891 9]).inputs = [.bufWrite .frame 2891 9] ∧ 2891 < 2892 := by decide

theorem witness_HostByteWriteIsReadBack :
    small.status.busy = false ∧
    (given small [.bufWrite .pix 92159 1]).inputs = [.bufWrite .pix 92159 1] ∧ 92159 < 92160 ∧
    (given small [.bufWrite .mono 23039 1]).inputs = [.bufWrite .mono 23039 1] ∧ 23039 < 23040 ∧
    (given small [.bufWrite .payload 2879 1]).inputs = [.bufWrite .payload 2879 1] ∧ 2879 < 2880 ∧
    Space.pix ≠ .frame ∧ Space.mono ≠ .frame ∧ Space.payload ≠ .frame := by decide

theorem witness_OutOfRangeAccessesAreRefused :
    (given busySmall [.bufWrite .frame 2892 1]).inputs = [.bufWrite .frame 2892 1] ∧ 2892 ≤ 2892 ∧ ¬ 2892 ≤ 2891 ∧
    (given small [.bufRead .pix 92160]).inputs = [.bufRead .pix 92160] ∧
    4 * defaultConfig.maxPix ≤ 92160 ∧ ¬ 4 * defaultConfig.maxPix ≤ 92159 ∧
    (largeConfig.maxPix + 7) / 8 ≤ 3750 ∧ ¬ (largeConfig.maxPix + 7) / 8 ≤ 3749 := by decide

theorem witness_BusyBlockIgnoresHostWrites :
    (given busySmall [.bufWrite .pix 92159 1]).status.busy = true ∧
    (given busySmall [.bufWrite .pix 92159 1]).inputs = [.bufWrite .pix 92159 1] ∧ 92159 < capacity defaultConfig .pix ∧
    (given busySmall [.regWrite 2 1]).inputs = [.regWrite 2 1] := by decide

theorem witness_BufferReadsWhileBusy :
    (given busySmall [.bufRead .mono 0]).inputs = [.bufRead .mono 0] ∧ 23039 < capacity defaultConfig .mono ∧
    RunningCommandWrites busySmall .mono ∧ ¬ RunningCommandWrites busySmall .payload ∧ ¬ RunningCommandWrites small .mono := by
  refine ⟨by decide, by decide, ⟨rfl, _, rfl, rfl⟩, ?_, fun h => absurd h.1 (by decide)⟩
  rintro ⟨-, j, hj, hm⟩
  cases hj
  cases hm

theorem witness_ResetArrivesAtAnyTime : (given busySmall [.reset]).inputs = [.reset] := by decide

theorem busySmall_inv : busySmall.Inv defaultConfig := by
  refine ⟨fun sp => ?_, fun sp => ?_, ?_, ?_, ?_⟩
  · cases sp <;> decide
  · cases sp <;> decide
  · unfold Status.Legal legalCodes
    decide
  · refine ⟨rfl, ⟨by decide, by decide, by decide⟩, rfl, ?_⟩
    decide
  · unfold State.LengthsLegal
    decide

theorem witness_EveryStepKeepsTheInvariant :
    busySmall.Inv defaultConfig ∧ (∃ t, step busySmall = .next t) ∧ ∃ t, stepIn defaultConfig busySmall = .next t :=
  ⟨busySmall_inv, ⟨_, rfl⟩, _, rfl⟩

theorem witness_EveryStepKeepsTheBuffersCanonical : busySmall.MemoriesCanonical ∧ ∃ t, step busySmall = .next t :=
  ⟨busySmall_inv.1, _, rfl⟩

theorem witness_EveryStepKeepsWorkOnTheScan :
    busySmall.Inv defaultConfig ∧ busySmall.WorkLegal defaultConfig ∧ ∃ t, step (given busySmall [.scan 1]) = .next t :=
  ⟨busySmall_inv, rfl, _, rfl⟩

/-- A block at a place of the scan of `CONVERT`. -/
def converting (ph : Phase) (k : Nat) : State :=
  { running (.convert 240 96 ⟨.flat, 0, false⟩) page with seq := { phase := ph, k := k } }

/-- One witness for each clause: inside a phase, and the last index of each of the three phases. -/
theorem witness_ScanPassesThePhasesInOrder : busySmall.ControlLegal defaultConfig ∧ busySmall.seq.k + 1 < 6 ∧
    busySmall.latch = some (quantJob 3 2 (.diffusion .fs) 128) ∧ busySmall.seq.phase ≠ .framing ∧ 6 = 3 * 2 ∧
    (∀ x ∈ [(Phase.quantise, 23039, 240 * 96), (Phase.packing, 23039, 240 * 96), (Phase.framing, 2891, 2892)],
      (converting x.1 x.2.1).ControlLegal defaultConfig ∧ x.2.1 + 1 = x.2.2) := by
  refine ⟨busySmall_inv.2.2.2.1, by decide, rfl, by decide, rfl, fun x hx => ?_⟩
  simp only [List.mem_cons, List.not_mem_nil, or_false] at hx
  rcases hx with rfl | rfl | rfl
  · exact ⟨⟨rfl, ⟨rfl, rfl⟩, .inl rfl, by decide⟩, by decide⟩
  · exact ⟨⟨rfl, ⟨rfl, rfl⟩, .inr (.inl rfl), by decide⟩, by decide⟩
  · exact ⟨⟨rfl, ⟨rfl, rfl⟩, .inr (.inr rfl), by decide⟩, by decide⟩

theorem witness_EveryAcceptedCommandCompletes : busySmall.ControlLegal defaultConfig ∧ busySmall.status.busy = true :=
  ⟨busySmall_inv.2.2.2.1, rfl⟩

theorem witness_BlockLeftToItselfBecomesIdle :
    busySmall.inputs = [] ∧ busySmall.status.busy = true ∧ small.inputs = [] ∧ small.status.busy = false :=
  ⟨rfl, rfl, rfl, rfl⟩

theorem witness_OnlyCompletionOrResetEndsACommand : busySmall.status.busy = true ∧ ∃ t, step busySmall = .next t :=
  ⟨rfl, _, rfl⟩

theorem witness_BlockNeverWritesPix : (∃ t, step busySmall = .next t) ∧ busySmall.inputs.head? ≠ some .reset ∧
    (∀ index v, busySmall.inputs.head? ≠ some (.bufWrite .pix index v)) := ⟨⟨_, rfl⟩, nofun, fun _ _ => nofun⟩

theorem witness_IdleStepsKeepTheFrame :
    (given page [.regWrite 0 0xF0000000]).status.busy = false ∧
    (∃ t, step (given page [.regWrite 0 0xF0000000]) = .next t) ∧
    (given page [.regWrite 0 0xF0000000]).inputs.head? ≠ some .reset := ⟨rfl, ⟨_, rfl⟩, nofun⟩

end Sys2Proof.Tests
end

/-! PROOFS of the family of 00_scope.md. First what a write of a word to `REG.CMD` can do (R9), then what the quantisers decide
under any configuration (R7, R35), then the run of a `QUANT` command from its write to its completion. -/

namespace Sys2Proof.Machine

/-! ### A command write (R9) -/

/-- The decoder drops no bit: the command it reads encodes to the word it was read from (R80, R96). -/
theorem encode_of_decode {w : Word} {i : Instr} (h : decode w = .ok i) : encode i = w := by
  unfold decode at h
  split_ifs at h with hres hq hp hf he hc hclr
  all_goals
    obtain rfl := Except.ok.inj h
    have hw := commandWord_fields w (not_not.mp hres)
  · obtain ⟨-, henc, -⟩ := requestOf_decodeQuant (algField w) (threshField w) (msizeField w) (invertField w)
    rw [hq] at hw
    exact henc.trans hw
  · rwa [hp] at hw
  · rwa [hf] at hw
  · rwa [he] at hw
  · rwa [hc] at hw
  · rwa [hclr] at hw

/-- The four outcomes of a write of the word `w` to `REG.CMD` in state `s` (R9), in the order ignored, rejected, immediate,
accepted; `t` is the state after it. -/
def CommandWriteCase (c : Config) (w : Word) (s t : State) : Prop :=
  (s.status.busy = true ∧ t = s) ∨
  (s.status.busy = false ∧ ∃ e, t = reject w e s) ∨
  (s.status.busy = false ∧ opField w = 0xF#4 ∧
    t = { s with cmd := 0, status := .zero, width := 0, height := 0, plen := 0, flen := 0 }) ∨
  (s.status.busy = false ∧ ∃ r, rejection c r s = none ∧ t = accept w r s)

theorem issue_commandWriteCase (c : Config) (w : Word) (r : Request) (s : State) :
    CommandWriteCase c w s (issue c w r s) := by
  rcases issue_cases c w r s with ⟨hb, hs⟩ | ⟨hb, e, -, hs⟩ | ⟨hb, hr, hs⟩
  · exact .inl ⟨hb, hs⟩
  · exact .inr (.inl ⟨hb, e, hs⟩)
  · exact .inr (.inr (.inr ⟨hb, r, hr, hs⟩))

theorem clear_commandWriteCase (c : Config) {w : Word} (hop : opField w = 0xF#4) (s : State) :
    CommandWriteCase c w s (clear s) := by
  cases hb : s.status.busy with
  | true => exact .inl ⟨hb, if_pos hb⟩
  | false => exact .inr (.inr (.inl ⟨hb, hop, clear_of_idle hb⟩))

theorem issueIllegal_commandWriteCase (c : Config) (w : Word) (e : DecodeError) (s : State) :
    CommandWriteCase c w s (issueIllegal w e s) := by
  cases hb : s.status.busy with
  | true => exact .inl ⟨hb, if_pos hb⟩
  | false => exact .inr (.inl ⟨hb, causeOfError e, if_neg (by simp [hb])⟩)

/-- A command write always answers a next state, by one of the four outcomes. -/
theorem writeCommand_cases (c : Config) (w : Word) (s : State) :
    ∃ t, writeCommand c w s = .next t ∧ CommandWriteCase c w s t := by
  unfold writeCommand
  cases hd : decode w with
  | error e => exact ⟨_, rfl, issueIllegal_commandWriteCase c w e s⟩
  | ok i =>
    rcases requestOf_cases i with ⟨r, hr⟩ | ⟨alg, t, m, inv, rfl⟩
    · refine ⟨_, execIn_eq_issue c hr s, ?_⟩
      rw [encode_of_decode hd]
      exact issue_commandWriteCase c w r s
    · exact ⟨_, execIn_clr c alg t m inv s, clear_commandWriteCase c (opField_of_decode_clr hd) s⟩

/-- The step of a host write to `REG.CMD` is the command write on the state with that input taken off. -/
theorem stepIn_of_commandWrite (c : Config) {s : State} {rest : List Input} {w : Word}
    (h : s.inputs = .regWrite 0 w :: rest) : stepIn c s = writeCommand c w { s with inputs := rest } :=
  stepIn_of_input c h

/-- Settles O9: the four cases of `writeCommand_cases`, a rejection and an acceptance each with its frame. -/
theorem commandWriteHasOneOfFourOutcomes : Obligations.CommandWriteHasOneOfFourOutcomes := by
  intro s rest w hin
  obtain ⟨t, ht, hcase⟩ := writeCommand_cases defaultConfig w { s with inputs := rest }
  refine ⟨t, (stepIn_of_commandWrite defaultConfig hin).trans ht, ?_⟩
  rcases hcase with ignored | ⟨hb, e, rfl⟩ | immediate | ⟨hb, r, -, rfl⟩
  · exact .inl ignored
  · exact .inr (.inl ⟨hb, _, _, e.codes_legal, reject_rejectedAs w e _⟩)
  · exact .inr (.inr (.inl immediate))
  · exact .inr (.inr (.inr ⟨hb, _, _, _, accept_acceptedAs w r _⟩))

/-! ### What the quantisers decide (R112)

The scan's working values are named as it reaches them, so that the sums of R143 can speak of them. -/

/-- The working value of pixel `q` as the scan reaches it (R140). -/
def edValueAt (c : Config) (k : Kernel) (w h t : Nat) (init : List Rat) (q : Nat) : Rat :=
  (edWorkAfter c k w h t init q).getD q 0

/-- The un-inverted decision of pixel `q` as the scan reaches it (R141). -/
def edDecisionAt (c : Config) (k : Kernel) (w h t : Nat) (init : List Rat) (q : Nat) : Bool :=
  edDecide c.edCmp (edValueAt c k w h t init q) t

/-- What pixel `p` receives from pixel `q` when that pixel has the error `e` (R143). -/
def sharesTo (c : Config) (k : Kernel) (w q p : Nat) (e : Rat) : Rat :=
  (k.taps.map fun tap => if TapHits w tap q p then c.share e tap.num k.den else 0).sum

theorem edError_eq_errorOf (v : Rat) (d : Bool) : edError v d = errorOf v d := by
  cases d <;> simp [edError, errorOf]

/-- The scan's pixel `q` adds its shares to the working value of every pixel `p` (R140, R143). -/
theorem edPixel_getD (c : Config) (k : Kernel) (w h t q : Nat) (work : List Rat) {p : Nat}
    (hlen : work.length = w * h) (hp : p < w * h) :
    (edPixel c k w h t q work).getD p 0
      = work.getD p 0 + sharesTo c k w q p (errorOf (work.getD q 0) (edPixelDecision c t q work)) := by
  rw [edPixel, edSpread_getD _ _ _ _ _ _ _ _ _ (by omega), edError_eq_errorOf]
  simp only [tapTarget_eq_some_iff _ hp, sharesTo]

/-- After `n` pixels of the scan a working value is its initial value plus what those pixels gave it, whatever the taps
(R140, R143). -/
theorem edWorkAfter_getD (c : Config) (k : Kernel) (w h t : Nat) (init : List Rat) (n : Nat) {p : Nat}
    (hlen : init.length = w * h) (hp : p < w * h) :
    (edWorkAfter c k w h t init n).getD p 0
      = init.getD p 0 + ((List.range n).map fun q =>
          sharesTo c k w q p (errorOf (edValueAt c k w h t init q) (edDecisionAt c k w h t init q))).sum := by
  induction n with
  | zero => simp [edWorkAfter]
  | succ n ih =>
    rw [edWorkAfter, edPixel_getD c k w h t n _ (by simpa using hlen) hp, ih, List.range_succ, List.map_append,
      List.sum_append, List.map_singleton, List.sum_singleton, add_assoc]
    rfl

/-- The decision list of error diffusion holds the decision of each pixel as the scan reaches it. -/
theorem edDecisions_getElem? (c : Config) (k : Kernel) (w h : Nat) (t : Byte) (ls : List Nat) {q : Nat} (hq : q < w * h) :
    (edDecisions c k w h t ls)[q]? = some (edDecisionAt c k w h t.toNat (edInit ls) q) := by
  rw [edDecisions_eq_map, List.getElem?_map, List.getElem?_range hq]
  rfl

theorem edInit_lumas_getD (s : State) {n p : Nat} (hp : p < n) :
    (edInit (s.lumas n)).getD p 0 = (s.luma1000 p : Rat) / 1000 := by
  rw [edInit, List.getD_eq_getElem?_getD, List.getElem?_map, s.lumas_getElem? n p hp]
  rfl

/-- Error diffusion of the raster in `PIX` decides by the declarative rules, with any kernel (R140 to R143). -/
theorem edDecisionAt_decidesIn (c : Config) (k : KernelName) (w h t : Nat) (s : State) :
    DecidesIn c (.diffusion k) w (w * h) t s.luma1000
      (edDecisionAt c (kernelOf c k) w h t (edInit (s.lumas (w * h)))) := by
  refine ⟨edValueAt c (kernelOf c k) w h t (edInit (s.lumas (w * h))), fun p hp => ⟨?_, rfl⟩⟩
  rw [edValueAt, edWorkAfter_getD c _ w h t _ p (by simp [edInit]) hp, edInit_lumas_getD s hp]
  rfl

/-- Every algorithm's list of decisions is, pixel by pixel, what `DecidesIn` asks of it (R112). -/
theorem quantDecisions_decidesIn (c : Config) (w h : Nat) (p : QuantParams) (s : State) :
    ∃ d : Nat → Bool, DecidesIn c p.algorithm w (w * h) p.thresh.toNat s.luma1000 d ∧
      ∀ q, q < w * h → (quantDecisions c w h p (s.lumas (w * h)))[q]? = some (d q) := by
  obtain ⟨algorithm, thresh, inv⟩ := p
  cases algorithm with
  | flat =>
    refine ⟨fun q => flatDecision (s.luma1000 q), fun _ _ => rfl, fun q hq => ?_⟩
    simp only [quantDecisions, flatDecisions_getElem?, s.lumas_getElem? _ q hq, Option.map_some]
  | ordered n =>
    refine ⟨fun q => bayerDecision c n thresh (q % w) (q / w) (s.luma1000 q), fun _ _ => rfl, fun q hq => ?_⟩
    simp only [quantDecisions, bayerDecisions_getElem?, s.lumas_getElem? _ q hq, Option.map_some, Nat.zero_add]
  | diffusion k =>
    exact ⟨_, edDecisionAt_decidesIn c k w h thresh.toNat s, fun q hq => edDecisions_getElem? c _ w h thresh _ hq⟩

/-! ### A `QUANT` command from its write to its completion -/

theorem afterCompletion_quant_onlyMonoWritten (c : Config) (word : Word) (alg : Nibble) (t m : Byte) (inv : Bool) (s : State) :
    OnlyMonoWritten s (afterCompletion c word (.quant alg t m inv) s) := ⟨rfl, rfl, rfl, rfl⟩

/-- After a `QUANT` has completed, `MONO` reads as its quantiser stage left it. -/
theorem afterCompletion_quant_readByte_mono (c : Config) (word : Word) (alg : Nibble) (t m : Byte) (inv : Bool) (s : State)
    (a : Nat) : (afterCompletion c word (.quant alg t m inv) s).readByte .mono a
      = (quantStage c s.imageW s.imageH (effectiveParams alg t m inv) s).readByte .mono a :=
  State.readByte_congr rfl rfl a

/-- An accepted `QUANT`, left to itself, completes with the decisions of its effective algorithm and writes nothing else
(R112, R114). -/
theorem accept_quant_completes (c : Config) (word : Word) (alg : Nibble) (t m : Byte) (inv : Bool) (s : State) :
    ∃ v d, stepIn c { accept word (.quant alg t m inv) s with inputs := [] } = .next v ∧
      FinishedAs s v word (fallbackTaken alg m) ∧ OnlyMonoWritten s v ∧
      DecidesIn c (effectiveAlgorithm alg m) s.imageW (s.imageW * s.imageH) t.toNat s.luma1000 d ∧
      (∀ q, q < s.imageW * s.imageH → v.readByte .mono q = if xor (d q) inv then 0xFF#8 else 0x00#8) ∧
      UnchangedFrom s v .mono (s.imageW * s.imageH) := by
  obtain ⟨d, hd, hlist⟩ := quantDecisions_decidesIn c s.imageW s.imageH (effectiveParams alg t m inv) s
  refine ⟨_, d, stepIn_accept c word _ s, afterCompletion_finishedAs c word _ s,
    afterCompletion_quant_onlyMonoWritten c word alg t m inv s, hd, fun q hq => ?_, fun a ha => ?_⟩
  · rw [afterCompletion_quant_readByte_mono]
    exact quantStage_readByte_mono c _ _ _ s q (d q) (hlist q hq)
  · rw [afterCompletion_quant_readByte_mono]
    exact quantStage_readByte_mono_out c _ _ _ s a ha

/-- Settles O60: the chain of checks picks the branch, each rejected one by its cause, the last one by
`accept_quant_completes`. -/
theorem quantRunsUnderEveryConfiguration : Obligations.QuantRunsUnderEveryConfiguration := by
  intro c i alg t m inv s hq hb
  obtain ⟨hreq, -⟩ := requestOf_quant hq
  have hchecks := rejection_quant c alg t m inv s
  have hrejected : ∀ e, rejection c (.quant alg t m inv) s = some e →
      RejectedAs s (issue c (encode i) (.quant alg t m inv) s) (encode i) e.code e.sub := fun e he => by
    rw [issue_of_rejected hb he]
    exact reject_rejectedAs (encode i) e s
  refine ⟨_, execIn_eq_issue c hreq s, ?_⟩
  split_ifs at hchecks ⊢
  · exact hrejected .algRange hchecks
  · exact hrejected .matrixSize hchecks
  · exact hrejected .zeroArea hchecks
  · exact hrejected .capacity hchecks
  · rw [issue_of_accepted hb hchecks]
    exact ⟨accept_acceptedAs (encode i) _ s, accept_quant_completes c (encode i) alg t m inv s⟩

end Sys2Proof.Machine

/-! PROOFS of the family of 10_state.md. First the run of a written command (R21, R35) and the registers as the host writes and
reads them (R20 to R24), then one rule per operation for the invariant and for `WORK`, from which every step keeps both (R31 to
R33, R38, R50), then the order of the scan's phases (R31) and what no step writes (R27, R30). -/

namespace Sys2Proof.Machine

/-! ### A command write runs the decoded command (R21, R35) -/

/-- Settles O59: `writeCommand` asks the decoder, and `execIn_default` ties the two forms of a meaning. -/
theorem everyConfigurationRunsTheDecodedCommand : Obligations.EveryConfigurationRunsTheDecodedCommand := by
  refine ⟨fun c s rest w i hin hdec => ?_, step_eq_stepIn, fun i s => (execIn_default i s).symm⟩
  rw [stepIn_of_commandWrite c hin, writeCommand, hdec]

/-- A whole word is read by its own bit numbers. -/
theorem tableWord_toNat (w : Word) : tableWord 32 w.toNat = w := by
  rw [tableWord, Nat.mod_eq_of_lt w.isLt, BitVec.ofNat_toNat, BitVec.setWidth_eq]

theorem withFetchWord_inputs (s : State) (w : Word) :
    (s.withFetchWord 32 w.toNat).inputs = .regWrite 0 w :: s.inputs := by
  rw [State.withFetchWord, commandInput, tableWord_toNat]

/-- Settles O5: the default case of `everyConfigurationRunsTheDecodedCommand`, and the same of the placed word. -/
theorem stepRunsTheDecodedCommand : Obligations.StepRunsTheDecodedCommand := by
  obtain ⟨hrun, hstep, hexec⟩ := everyConfigurationRunsTheDecodedCommand
  have hwritten : ∀ (s : State) (rest : List Input) (w : Word) (i : Instr), s.inputs = .regWrite 0 w :: rest →
      decode w = .ok i → step s = exec i { s with inputs := rest } := fun s rest w i hin hdec => by
    rw [hstep, hexec, hrun defaultConfig s rest w i hin hdec]
  exact ⟨hwritten, fun s w i hdec => hwritten (s.withFetchWord 32 w.toNat) s.inputs w i (withFetchWord_inputs s w) hdec⟩

/-! ### The registers (R20 to R24) -/

theorem readReg_of_six_le (s : State) {index : Nat} (h : 6 ≤ index) : s.readReg index = 0 := by
  match index, h with
  | n + 6, _ => rfl

/-- Settles O39: the value read is `readReg`, case by case of the index. -/
theorem registerReadsReturnTheRegisters : Obligations.RegisterReadsReturnTheRegisters := by
  intro s rest index hin
  refine ⟨s.readReg index, step_of_input hin, ?_, ?_, ?_, ?_, ?_, ?_, readReg_of_six_le s⟩
  all_goals
    rintro rfl
    rfl

/-- The four flags are the low bits of the word, in the order of R22. -/
theorem Status.toWord_flags (st : Status) : st.toWord.getLsbD 0 = st.busy ∧ st.toWord.getLsbD 1 = st.done ∧
    st.toWord.getLsbD 2 = st.err ∧ st.toWord.getLsbD 3 = st.unsup := by
  have hbit : ∀ b : Bool, (BitVec.ofBool b).getLsbD 0 = b := by decide
  simp only [Status.toWord, BitVec.getLsbD_append]
  exact ⟨hbit st.busy, hbit st.done, hbit st.err, hbit st.unsup⟩

/-- From bit 4 upward the word holds the two codes and zeros (R22). -/
theorem Status.toWord_codes (st : Status) (i : Nat) : st.toWord.getLsbD (4 + i) =
    if i < 4 then st.errCode.getLsbD i else if i < 8 then st.errSub.getLsbD (i - 4) else false := by
  have hflags : ¬ 4 + i < 1 ∧ ¬ 4 + i - 1 < 1 ∧ ¬ 4 + i - 1 - 1 < 1 ∧ ¬ 4 + i - 1 - 1 - 1 < 1 := by omega
  have hcodes : 4 + i - 1 - 1 - 1 - 1 = i := by omega
  have hsub : i - 4 < 4 ↔ i < 8 := by omega
  simp only [Status.toWord, BitVec.getLsbD_append, BitVec.getLsbD_zero, hflags, if_false, hcodes, hsub]

/-- Settles O40: each field stands where the concatenation of R22 puts it. -/
theorem statusWordHasTheStatedLayout : Obligations.StatusWordHasTheStatedLayout := by
  intro st
  obtain ⟨hbusy, hdone, herr, hunsup⟩ := st.toWord_flags
  refine ⟨hbusy, hdone, herr, hunsup, ?_, ?_, ?_⟩
  · refine BitVec.eq_of_getLsbD_eq fun i hi => ?_
    rw [BitVec.getLsbD_extractLsb', st.toWord_codes i, if_pos hi, decide_eq_true hi, Bool.true_and]
  · refine BitVec.eq_of_getLsbD_eq fun i hi => ?_
    rw [BitVec.getLsbD_extractLsb', show 8 + i = 4 + (4 + i) by omega, st.toWord_codes, if_neg (by omega),
      if_pos (by omega), Nat.add_sub_cancel_left, decide_eq_true hi, Bool.true_and]
  · refine BitVec.eq_of_getLsbD_eq fun i hi => ?_
    rw [BitVec.getLsbD_extractLsb', show 12 + i = 4 + (8 + i) by omega, st.toWord_codes, if_neg (by omega),
      if_neg (by omega), Bool.and_false, BitVec.getLsbD_zero]

/-- Storing bits 15:0 and reading them with bits 31:16 zero masks the word (R23, R24). -/
theorem lowHalf_eq_and (v : Word) : (v.setWidth 16).setWidth 32 = v &&& 0xFFFF#32 := by
  refine BitVec.eq_of_toNat_eq ?_
  have hmask : (0xFFFF#32).toNat = 2 ^ 16 - 1 := rfl
  rw [BitVec.toNat_and, hmask, Nat.and_two_pow_sub_one_eq_mod, BitVec.toNat_setWidth, BitVec.toNat_setWidth]
  omega

/-- Settles O41: a write is ignored while busy and otherwise stores the low half, which reads back masked. -/
theorem widthAndHeightStoreTheirLowHalf : Obligations.WidthAndHeightStoreTheirLowHalf := by
  intro s rest v
  constructor
  all_goals
    intro hin
    refine ⟨_, step_of_input hin, ?_⟩
    simp only [writeWidth, writeHeight]
    cases s.status.busy with
    | true => rfl
    | false => exact ⟨rfl, lowHalf_eq_and v⟩

/-- Settles O47: every register of `State.reset` is 0 and every buffer of it empty. -/
theorem resetLeavesTheStatedValues : Obligations.ResetLeavesTheStatedValues := by
  refine ⟨fun index => ?_, rfl, fun sp a => ?_⟩
  · match index with
    | 0 | 1 | 2 | 3 | 4 | 5 => decide
    | n + 6 => rfl
  · cases sp <;> rfl

/-! ### The buffers and the length registers (R25, R26, R50) -/

/-- A property of each buffer, kept by a write to one space when the written buffer has it again. -/
theorem State.forall_buffer_writeBytes {P : Space → Memory → Prop} {s : State} {sp : Space} {a : Nat} {vs : List Byte}
    (h : ∀ sp', P sp' (s.buffer sp')) (hw : P sp ((s.buffer sp).writeRange a vs)) :
    ∀ sp', P sp' ((s.writeBytes sp a vs).buffer sp') := by
  intro sp'
  by_cases hsp : sp' = sp
  · subst hsp
    rwa [State.writeBytes, State.setBuffer_buffer_same]
  · rw [State.writeBytes, State.setBuffer_buffer_other s _ hsp]
    exact h sp'

/-- What the invariant asks of the buffers and the length registers: canonical, in range, lengths legal. -/
def State.StorageLegal (c : Config) (s : State) : Prop :=
  s.MemoriesCanonical ∧ s.MemoriesInRange c ∧ s.LengthsLegal c

theorem State.StorageLegal.withLengths {c : Config} {s t : State} (hs : s.StorageLegal c)
    (hb : ∀ sp, t.buffer sp = s.buffer sp) (hl : t.LengthsLegal c) : t.StorageLegal c := by
  obtain ⟨hcanon, hrange, -⟩ := hs
  refine ⟨fun sp => ?_, fun sp => ?_, hl⟩
  · rw [hb]
    exact hcanon sp
  · rw [hb]
    exact hrange sp

theorem State.StorageLegal.writeBytes {c : Config} {s : State} (hs : s.StorageLegal c) {sp : Space} {a : Nat}
    {vs : List Byte} (hfit : a + vs.length ≤ capacity c sp) : (s.writeBytes sp a vs).StorageLegal c := by
  obtain ⟨hcanon, hrange, hflen, hplen⟩ := hs
  refine ⟨?_, ?_, by rwa [State.writeBytes_flen], by rwa [State.writeBytes_plen]⟩
  · exact State.forall_buffer_writeBytes (P := fun _ m => m.wf = true) hcanon (Memory.writeRange_wf (hcanon sp) a vs)
  · exact State.forall_buffer_writeBytes (P := fun sp m => m.below (capacity c sp) = true) hrange
      (Memory.writeRange_below (hrange sp) a vs hfit)

theorem quantStage_storageLegal {c : Config} {w h : Nat} (p : QuantParams) {s : State} (hfit : w * h ≤ c.maxPix)
    (hs : s.StorageLegal c) : (quantStage c w h p s).StorageLegal c := by
  refine hs.writeBytes ?_
  rw [List.length_map, quantDecisions_length c w h p _ (s.lumas_length _), Nat.zero_add]
  exact hfit

theorem packedLen_le_payCap {c : Config} {n : Nat} (h : n ≤ c.maxPix) : packedLen n ≤ c.payCap :=
  Nat.div_le_div_right (Nat.add_le_add_right h 7)

theorem packStage_storageLegal {c : Config} {w h : Nat} {s : State} (hfit : w * h ≤ c.maxPix)
    (hs : s.StorageLegal c) : (packStage w h s).StorageLegal c := by
  have hlen := packedLen_le_payCap hfit
  have hwritten : (s.writeBytes .payload 0 (packedBytes w h (s.readBytes .mono 0 (w * h)))).StorageLegal c := by
    refine hs.writeBytes ?_
    rw [packedBytes_length, Nat.zero_add]
    exact hlen
  obtain ⟨-, -, hflen, -⟩ := hs
  refine hwritten.withLengths (fun sp => rfl) ⟨hflen, ?_⟩
  rw [packStage_plen, BitVec.toNat_ofNat]
  exact (Nat.mod_le _ _).trans hlen

theorem frameStage_storageLegal {c : Config} {s : State} (hs : s.StorageLegal c) : (frameStage s).StorageLegal c := by
  have hwritten : (s.writeBytes .frame 0 (frameBytes (s.readBytes .payload 0 payloadLen))).StorageLegal c := by
    refine hs.writeBytes ?_
    rw [frameBytes_length, State.readBytes_length]
    exact Nat.le_refl frameLen
  obtain ⟨-, -, -, hplen⟩ := hs
  exact hwritten.withLengths (fun sp => rfl) ⟨.inr rfl, hplen⟩

/-! ### Jobs and their phases (R31) -/

/-- The raster of a legal job fits the capacity; 240 by 96 does at every `MAXPIX` (R7). -/
theorem Job.Legal.pixels_le {c : Config} {j : Job} (h : j.Legal c) : j.pixels ≤ c.maxPix := by
  have hmax := c.maxPix_ge
  cases j with
  | quant | pack =>
    obtain ⟨-, -, hfit⟩ := h
    exact hfit
  | frame => exact Nat.zero_le _
  | encode | convert =>
    obtain ⟨rfl, rfl⟩ := h
    exact hmax

theorem Job.not_hasPhase_idle (j : Job) : ¬ j.HasPhase .idle := by
  intro h
  cases j with
  | quant | pack | frame => cases h
  | encode => rcases h with h | h <;> cases h
  | convert => rcases h with h | h | h <;> cases h

theorem Job.hasPhase_firstPhase (j : Job) : j.HasPhase j.firstPhase := by
  cases j with
  | quant | pack | frame => rfl
  | encode | convert => exact .inl rfl

/-- A job goes on to a further phase in two places only: from QUANTISE in a `CONVERT`, from PACKING in an `ENCODE` or a
`CONVERT` (R31, R191). -/
theorem Job.nextPhase_cases {j : Job} {ph ph' : Phase} (h : j.nextPhase ph = some ph') :
    (ph = .quantise ∧ ph' = .packing ∧ ∃ w h p, j = .convert w h p) ∨
    (ph = .packing ∧ ph' = .framing ∧ ((∃ w h p, j = .convert w h p) ∨ ∃ w h, j = .encode w h)) := by
  cases j with
  | quant | pack | frame => cases h
  | encode w h' =>
    cases ph with
    | packing => exact .inr ⟨rfl, (Option.some.inj h).symm, .inr ⟨w, h', rfl⟩⟩
    | idle | quantise | framing => cases h
  | convert w h' p =>
    cases ph with
    | quantise => exact .inl ⟨rfl, (Option.some.inj h).symm, w, h', p, rfl⟩
    | packing => exact .inr ⟨rfl, (Option.some.inj h).symm, .inl ⟨w, h', p, rfl⟩⟩
    | idle | framing => cases h

theorem Job.hasPhase_nextPhase {j : Job} {ph ph' : Phase} (h : j.nextPhase ph = some ph') : j.HasPhase ph' := by
  rcases j.nextPhase_cases h with ⟨-, rfl, w, h', p, rfl⟩ | ⟨-, rfl, ⟨w, h', p, rfl⟩ | ⟨w, h', rfl⟩⟩
  · exact .inr (.inl rfl)
  · exact .inr (.inr rfl)
  · exact .inr rfl

/-- The last phase of each operation (R31). -/
theorem Job.last_phase {j : Job} {ph : Phase} (hp : j.HasPhase ph) (h : j.nextPhase ph = none) :
    (ph = .quantise ∧ ∃ w h p, j = .quant w h p) ∨ (ph = .packing ∧ ∃ w h, j = .pack w h) ∨
    (ph = .framing ∧ (j = .frame ∨ (∃ w h, j = .encode w h) ∨ ∃ w h p, j = .convert w h p)) := by
  cases j with
  | quant w h' p => exact .inl ⟨hp, w, h', p, rfl⟩
  | pack w h' => exact .inr (.inl ⟨hp, w, h', rfl⟩)
  | frame => exact .inr (.inr ⟨hp, .inl rfl⟩)
  | encode w h' =>
    rcases hp with rfl | rfl
    · cases h
    · exact .inr (.inr ⟨rfl, .inr (.inl ⟨w, h', rfl⟩)⟩)
  | convert w h' p =>
    rcases hp with rfl | rfl | rfl
    · cases h
    · cases h
    · exact .inr (.inr ⟨rfl, .inr (.inr ⟨w, h', p, rfl⟩)⟩)

/-- QUANTISE and PACKING visit the pixels of the raster (R31). -/
theorem Job.phaseLen_of_ne_framing {j : Job} {ph : Phase} (hp : j.HasPhase ph) (h : ph ≠ .framing) :
    j.phaseLen ph = j.pixels := by
  cases ph with
  | idle => exact absurd hp j.not_hasPhase_idle
  | quantise | packing => rfl
  | framing => exact absurd rfl h

/-- A legal job has a first index in each of its phases. -/
theorem Job.Legal.phaseLen_pos {c : Config} {j : Job} {ph : Phase} (hj : j.Legal c) (hp : j.HasPhase ph) :
    0 < j.phaseLen ph := by
  by_cases hf : ph = .framing
  · subst hf
    exact (by decide : 0 < frameLen)
  rw [Job.phaseLen_of_ne_framing hp hf]
  cases j with
  | quant | pack =>
    obtain ⟨hw, hh, -⟩ := hj
    exact Nat.mul_pos hw hh
  | frame => exact absurd hp hf
  | encode | convert =>
    obtain ⟨rfl, rfl⟩ := hj
    exact (by decide : 0 < 240 * 96)

theorem Seq.next_of_lt {j : Job} {q : Seq} (h : q.k + 1 < j.phaseLen q.phase) :
    q.next j = some { q with k := q.k + 1 } := if_pos h

theorem Seq.next_of_last {j : Job} {q : Seq} (h : j.phaseLen q.phase ≤ q.k + 1) :
    q.next j = (j.nextPhase q.phase).map fun ph => { phase := ph, k := 0 } := if_neg (by omega)

/-- The next index is the one after it in the phase, or the first of the next phase (R31). -/
theorem Seq.next_cases {j : Job} {q q' : Seq} (h : q.next j = some q') :
    (q.k + 1 < j.phaseLen q.phase ∧ q' = { q with k := q.k + 1 }) ∨
    (j.phaseLen q.phase ≤ q.k + 1 ∧ ∃ ph, j.nextPhase q.phase = some ph ∧ q' = { phase := ph, k := 0 }) := by
  by_cases hin : q.k + 1 < j.phaseLen q.phase
  · rw [Seq.next_of_lt hin] at h
    exact .inl ⟨hin, (Option.some.inj h).symm⟩
  · rw [Seq.next_of_last (by omega), Option.map_eq_some_iff] at h
    obtain ⟨ph, hph, rfl⟩ := h
    exact .inr ⟨by omega, ph, hph, rfl⟩

/-- The next index lies inside a phase of the job. -/
theorem Seq.next_inside {c : Config} {j : Job} {q q' : Seq} (hj : j.Legal c) (hp : j.HasPhase q.phase)
    (h : q.next j = some q') : j.HasPhase q'.phase ∧ q'.k < j.phaseLen q'.phase := by
  rcases Seq.next_cases h with ⟨hin, rfl⟩ | ⟨-, ph, hph, rfl⟩
  · exact ⟨hp, hin⟩
  · exact ⟨Job.hasPhase_nextPhase hph, hj.phaseLen_pos (Job.hasPhase_nextPhase hph)⟩

/-! ### `STATUS` (R22, R38) -/

theorem Status.zero_legal : Status.zero.Legal :=
  ⟨nofun, nofun, fun _ => ⟨rfl, rfl⟩, nofun, nofun⟩

theorem Status.rejected_legal (e : Cause) : (Status.rejected e).Legal :=
  ⟨nofun, nofun, nofun, fun _ => e.codes_legal, nofun⟩

theorem Status.accepted_legal (unsup : Bool) : (Status.accepted unsup).Legal :=
  ⟨fun _ => ⟨rfl, rfl⟩, nofun, fun _ => ⟨rfl, rfl⟩, nofun, fun _ => .inl rfl⟩

theorem Status.completed_legal {st : Status} (h : st.Legal) (hb : st.busy = true) : st.completed.Legal := by
  obtain ⟨hbusy, -, hcodes, hcause, -⟩ := h
  obtain ⟨-, herr⟩ := hbusy hb
  exact ⟨nofun, fun _ => herr, hcodes, hcause, fun _ => .inr rfl⟩

/-! ### The latch and the scan (R31, R32) -/

theorem State.controlLegal_of_latch_some {c : Config} {s : State} {j : Job} (h : s.latch = some j) :
    s.ControlLegal c ↔
      s.status.busy = true ∧ j.Legal c ∧ j.HasPhase s.seq.phase ∧ s.seq.k < j.phaseLen s.seq.phase := by
  rw [State.ControlLegal, h]

theorem State.controlLegal_of_latch_none {c : Config} {s : State} (h : s.latch = none) :
    s.ControlLegal c ↔ s.status.busy = false ∧ s.seq = .idle ∧ s.work = [] := by
  rw [State.ControlLegal, h]
  rfl

theorem State.ControlLegal.latch_none {c : Config} {s : State} (h : s.ControlLegal c) (hb : s.status.busy = false) :
    s.latch = none := by
  cases hl : s.latch with
  | none => rfl
  | some j =>
    obtain ⟨hbusy, -⟩ := (State.controlLegal_of_latch_some hl).1 h
    exact absurd (hb.symm.trans hbusy) (by decide)

/-- An idle block stays legal in its control when only other parts of it change. -/
theorem State.ControlLegal.of_idle {c : Config} {s t : State} (h : s.ControlLegal c) (hb : s.status.busy = false)
    (htb : t.status.busy = false) (hl : t.latch = s.latch) (hq : t.seq = s.seq) (hw : t.work = s.work) :
    t.ControlLegal c := by
  have hnone := h.latch_none hb
  obtain ⟨-, hseq, hwork⟩ := (State.controlLegal_of_latch_none hnone).1 h
  exact (State.controlLegal_of_latch_none (hl.trans hnone)).2 ⟨htb, hq.trans hseq, hw.trans hwork⟩

theorem accept_controlLegal {c : Config} {word : Word} {r : Request} {s : State} (hr : rejection c r s = none) :
    (accept word r s).ControlLegal c := by
  have hj := job_legal_of_accepted hr
  have hp := Job.hasPhase_firstPhase (r.job s.imageW s.imageH)
  exact (State.controlLegal_of_latch_some rfl).2 ⟨rfl, hj, hp, hj.phaseLen_pos hp⟩

theorem complete_controlLegal (c : Config) (s : State) : (complete c s).ControlLegal c :=
  (State.controlLegal_of_latch_none rfl).2 ⟨rfl, rfl, rfl⟩

/-! ### The invariant, operation by operation -/

theorem State.inv_iff {c : Config} {s : State} :
    s.Inv c ↔ s.StorageLegal c ∧ s.status.Legal ∧ s.ControlLegal c :=
  ⟨fun ⟨hcanon, hrange, hst, hctl, hlen⟩ => ⟨⟨hcanon, hrange, hlen⟩, hst, hctl⟩,
    fun ⟨⟨hcanon, hrange, hlen⟩, hst, hctl⟩ => ⟨hcanon, hrange, hst, hctl, hlen⟩⟩

theorem State.Inv.controlLegal {c : Config} {s : State} (h : s.Inv c) : s.ControlLegal c := by
  obtain ⟨-, -, hctl⟩ := State.inv_iff.1 h
  exact hctl

theorem reset_inv (c : Config) : State.reset.Inv c := by
  refine State.inv_iff.2 ⟨⟨reset_memory_wf, fun sp => ?_, .inl rfl, Nat.zero_le _⟩, Status.zero_legal, rfl, rfl, rfl⟩
  cases sp <;> rfl

theorem resetBlock_inv (c : Config) (s : State) : (resetBlock s).Inv c := reset_inv c

theorem reject_inv {c : Config} (word : Word) (e : Cause) {s : State} (hs : s.Inv c) (hb : s.status.busy = false) :
    (reject word e s).Inv c := by
  obtain ⟨hsto, -, hctl⟩ := State.inv_iff.1 hs
  exact State.inv_iff.2 ⟨hsto, Status.rejected_legal e, hctl.of_idle hb rfl rfl rfl rfl⟩

/-- The immediate effect of `CLR` (R190). -/
theorem cleared_inv {c : Config} {s : State} (hs : s.Inv c) (hb : s.status.busy = false) :
    ({ s with cmd := 0, status := .zero, width := 0, height := 0, plen := 0, flen := 0 } : State).Inv c := by
  obtain ⟨hsto, -, hctl⟩ := State.inv_iff.1 hs
  exact State.inv_iff.2 ⟨hsto.withLengths (fun _ => rfl) ⟨.inl rfl, Nat.zero_le _⟩, Status.zero_legal,
    hctl.of_idle hb rfl rfl rfl rfl⟩

theorem accept_inv {c : Config} (word : Word) {r : Request} {s : State} (hs : s.Inv c) (hr : rejection c r s = none) :
    (accept word r s).Inv c := by
  obtain ⟨hsto, -, -⟩ := State.inv_iff.1 hs
  exact State.inv_iff.2 ⟨hsto, Status.accepted_legal r.unsup, accept_controlLegal hr⟩

/-- One byte stored by the host in an idle block (R51, R63). -/
theorem stored_inv {c : Config} {s : State} {sp : Space} {index : Nat} (v : Byte) (hs : s.Inv c)
    (hb : s.status.busy = false) (hin : index < capacity c sp) : (s.writeBytes sp index [v]).Inv c := by
  obtain ⟨hsto, hst, hctl⟩ := State.inv_iff.1 hs
  have hst' := State.writeBytes_status s sp index [v]
  exact State.inv_iff.2 ⟨hsto.writeBytes hin, hst' ▸ hst, hctl.of_idle hb (hst' ▸ hb) (State.writeBytes_latch ..)
    (State.writeBytes_seq ..) (State.writeBytes_work ..)⟩

theorem results_storageLegal {c : Config} {j : Job} (hj : j.Legal c) {s : State} (hs : s.StorageLegal c) :
    (results c s j).StorageLegal c := by
  have hfit := hj.pixels_le
  cases j with
  | quant w h p => exact quantStage_storageLegal p hfit hs
  | pack w h => exact packStage_storageLegal hfit hs
  | frame => exact frameStage_storageLegal hs
  | encode w h => exact frameStage_storageLegal (packStage_storageLegal hfit hs)
  | convert w h p =>
    exact frameStage_storageLegal (packStage_storageLegal hfit (quantStage_storageLegal p hfit hs))

theorem latchedResults_storageLegal {c : Config} {s : State} (hs : s.StorageLegal c) (hctl : s.ControlLegal c) :
    (latchedResults c s).StorageLegal c := by
  unfold latchedResults
  cases hl : s.latch with
  | none => exact hs
  | some j =>
    obtain ⟨-, hj, -⟩ := (State.controlLegal_of_latch_some hl).1 hctl
    exact results_storageLegal hj hs

theorem complete_inv {c : Config} {s : State} (hs : s.Inv c) (hb : s.status.busy = true) : (complete c s).Inv c := by
  obtain ⟨hsto, hst, hctl⟩ := State.inv_iff.1 hs
  exact State.inv_iff.2 ⟨latchedResults_storageLegal hsto hctl, Status.completed_legal hst hb, complete_controlLegal c s⟩

theorem scanOne_inv {c : Config} {s : State} (hs : s.Inv c) : (scanOne c s).Inv c := by
  rcases scanOne_cases c s with ⟨-, hidle⟩ | ⟨hb, j, q, hl, hq, hmove⟩ | ⟨hb, -, hlast⟩
  · rwa [hidle]
  · obtain ⟨hsto, hst, hctl⟩ := State.inv_iff.1 hs
    obtain ⟨-, hj, hp, -⟩ := (State.controlLegal_of_latch_some hl).1 hctl
    obtain ⟨hp', hk'⟩ := Seq.next_inside hj hp hq
    rw [hmove]
    refine State.inv_iff.2 ⟨hsto, hst, ?_⟩
    exact (State.controlLegal_of_latch_some (s := { s with seq := q, work := _ }) hl).2 ⟨hb, hj, hp', hk'⟩
  · rw [hlast]
    exact complete_inv hs hb

/-- What one position of the scan keeps, any number of positions keeps. -/
theorem scanMany_keeps {c : Config} {P : State → Prop} (hone : ∀ s, P s → P (scanOne c s)) (n : Nat) {s : State}
    (hs : P s) : P (scanMany c n s) := by
  induction n generalizing s with
  | zero => exact hs
  | succ n ih => exact ih (hone s hs)

theorem StepCase.inv {c : Config} {s s₀ t : State} (h : StepCase c s s₀ t) (hst : s₀.status = s.status)
    (hs : s₀.Inv c) : t.Inv c := by
  cases h with
  | ignored | resized | readOut => exact hs
  | rejected w word e hb => exact reject_inv word e hs (hst ▸ hb)
  | cleared w hb => exact cleared_inv hs (hst ▸ hb)
  | accepted w word r hb hin hr => exact accept_inv word hs hr
  | stored sp index v hb hin => exact stored_inv v hs (hst ▸ hb) hin
  | scanned n => exact scanMany_keeps (P := State.Inv c) (fun _ => scanOne_inv) n hs
  | completed hb => exact complete_inv hs (hst ▸ hb)
  | wasReset => exact resetBlock_inv c s₀

theorem stepIn_inv {c : Config} {s t : State} (hs : s.Inv c) (h : stepIn c s = .next t) : t.Inv c :=
  (stepIn_cases h).inv rfl hs

/-- Settles O50: the step lemma, at the default configuration and at every one. -/
theorem everyStepKeepsTheInvariant : Obligations.EveryStepKeepsTheInvariant :=
  ⟨fun _ _ hs h => stepIn_inv hs h, fun _ _ _ hs h => stepIn_inv hs h⟩

/-! ### `WORK` (R33, R140) -/

theorem State.workLegal_of_latch_none {c : Config} {s : State} (hl : s.latch = none) : s.WorkLegal c ↔ s.work = [] := by
  rw [State.WorkLegal, hl]

theorem State.workLegal_of_no_diffusion {c : Config} {s : State} {j : Job} (hl : s.latch = some j)
    (hd : j.diffusionPart = none) : s.WorkLegal c ↔ s.work = [] := by
  simp only [State.WorkLegal, hl, hd]

/-- In QUANTISE the scan has processed the pixels before its index (R140). -/
theorem State.workLegal_in_quantise {c : Config} {s : State} {j : Job} {w h t : Nat} {k : KernelName}
    (hl : s.latch = some j) (hd : j.diffusionPart = some (w, h, t, k)) (hp : s.seq.phase = .quantise) :
    s.WorkLegal c ↔ s.work = edWorkAfter c (kernelOf c k) w h t (edInit (s.lumas (w * h))) s.seq.k := by
  simp only [State.WorkLegal, hl, hd, if_pos hp]

/-- In a later phase it has processed them all. -/
theorem State.workLegal_after_quantise {c : Config} {s : State} {j : Job} {w h t : Nat} {k : KernelName}
    (hl : s.latch = some j) (hd : j.diffusionPart = some (w, h, t, k)) (hp : s.seq.phase ≠ .quantise) :
    s.WorkLegal c ↔ s.work = edWorkAfter c (kernelOf c k) w h t (edInit (s.lumas (w * h))) (w * h) := by
  simp only [State.WorkLegal, hl, hd, if_neg hp]

/-- An idle block has no `WORK`. -/
theorem State.ControlLegal.workLegal_of_idle {c : Config} {s : State} (h : s.ControlLegal c)
    (hb : s.status.busy = false) : s.WorkLegal c := by
  have hnone := h.latch_none hb
  obtain ⟨-, -, hwork⟩ := (State.controlLegal_of_latch_none hnone).1 h
  exact (State.workLegal_of_latch_none hnone).2 hwork

/-- An error-diffusion job is a `QUANT` or a `CONVERT`: it begins in QUANTISE, and its raster is the one diffused over. -/
theorem Job.raster_of_diffusionPart {j : Job} {w h t : Nat} {k : KernelName}
    (hd : j.diffusionPart = some (w, h, t, k)) : j.firstPhase = .quantise ∧ j.pixels = w * h := by
  have hpart : ∃ p, j.quantPart = some (w, h, p) := by
    unfold Job.diffusionPart at hd
    split at hd
    · rename_i w' h' p hq
      split at hd
      · cases hd
      · cases hd
      · cases hd
        exact ⟨p, hq⟩
    · cases hd
  obtain ⟨p, hq⟩ := hpart
  cases j with
  | quant | convert =>
    cases hq
    exact ⟨rfl, rfl⟩
  | pack | frame | encode => cases hq

theorem workAfter_of_no_diffusion (c : Config) {j : Job} (hd : j.diffusionPart = none) (q : Seq) (work : List Rat) :
    workAfter c j q work = work := by
  unfold workAfter
  split
  · rename_i hsome
    cases hd.symm.trans hsome
  · rfl

theorem workAfter_of_ne_quantise (c : Config) (j : Job) {q : Seq} (hp : q.phase ≠ .quantise) (work : List Rat) :
    workAfter c j q work = work := by
  unfold workAfter
  split
  · exact absurd ‹_› hp
  · rfl

theorem workAfter_of_quantise (c : Config) {j : Job} {w h t : Nat} {k : KernelName}
    (hd : j.diffusionPart = some (w, h, t, k)) {q : Seq} (hp : q.phase = .quantise) (work : List Rat) :
    workAfter c j q work = edPixel c (kernelOf c k) w h t q.k work := by
  simp only [workAfter, hd, hp]

/-- QUANTISE comes first: no phase leads to it (R191). -/
theorem Job.nextPhase_ne_quantise {j : Job} {ph : Phase} : j.nextPhase ph ≠ some .quantise := by
  intro h
  rcases j.nextPhase_cases h with ⟨-, hq, -⟩ | ⟨-, hq, -⟩ <;> cases hq

theorem Seq.next_ne_quantise {j : Job} {q q' : Seq} (hp : q.phase ≠ .quantise) (h : q.next j = some q') :
    q'.phase ≠ .quantise := by
  rcases Seq.next_cases h with ⟨-, rfl⟩ | ⟨-, ph, hph, rfl⟩
  · exact hp
  · exact fun hq => Job.nextPhase_ne_quantise (hph.trans (congrArg some hq))

/-- `WORK` is created from the luminances (R256). -/
theorem accept_workLegal (c : Config) (word : Word) (r : Request) (s : State) : (accept word r s).WorkLegal c := by
  have hl := accept_latch word r s
  have hwork := accept_work word r s
  unfold initialWork at hwork
  cases hd : (r.job s.imageW s.imageH).diffusionPart with
  | none =>
    rw [hd] at hwork
    exact (State.workLegal_of_no_diffusion hl hd).2 hwork
  | some d =>
    obtain ⟨w, h, t, k⟩ := d
    rw [hd] at hwork
    obtain ⟨hfirst, -⟩ := Job.raster_of_diffusionPart hd
    rw [State.workLegal_in_quantise hl hd hfirst, State.lumas_congr (accept_pix word r s) (accept_epoch word r s)]
    exact hwork

/-- A move of the scan processes one pixel while it is in QUANTISE and none later; the last index of QUANTISE is the raster's
last pixel. -/
theorem scanMove_workLegal {c : Config} {s : State} {j : Job} {q : Seq} (hctl : s.ControlLegal c) (hs : s.WorkLegal c)
    (hl : s.latch = some j) (hq : s.seq.next j = some q) :
    ({ s with seq := q, work := workAfter c j s.seq s.work } : State).WorkLegal c := by
  obtain ⟨-, -, -, hk⟩ := (State.controlLegal_of_latch_some hl).1 hctl
  cases hd : j.diffusionPart with
  | none =>
    have hnone := (State.workLegal_of_no_diffusion hl hd).1 hs
    refine (State.workLegal_of_no_diffusion (s := { s with seq := q, work := _ }) hl hd).2 ?_
    exact (workAfter_of_no_diffusion c hd s.seq s.work).trans hnone
  | some d =>
    obtain ⟨w, h, t, k⟩ := d
    obtain ⟨-, hpix⟩ := Job.raster_of_diffusionPart hd
    by_cases hp : s.seq.phase = .quantise
    · have hwork := (State.workLegal_in_quantise hl hd hp).1 hs
      have hone : workAfter c j s.seq s.work =
          edWorkAfter c (kernelOf c k) w h t (edInit (s.lumas (w * h))) (s.seq.k + 1) := by
        rw [workAfter_of_quantise c hd hp, hwork, edWorkAfter]
      rcases Seq.next_cases hq with ⟨-, rfl⟩ | ⟨hlast, ph, hph, rfl⟩
      · refine (State.workLegal_in_quantise (s := { s with seq := { s.seq with k := s.seq.k + 1 }, work := _ })
          hl hd hp).2 ?_
        exact hone
      · rw [hp] at hk hlast
        have hall : s.seq.k + 1 = w * h := (Nat.le_antisymm hlast hk).symm.trans hpix
        have hp' : ph ≠ .quantise := fun he => Job.nextPhase_ne_quantise (hph.trans (congrArg some he))
        rw [hall] at hone
        exact (State.workLegal_after_quantise (s := { s with seq := { phase := ph, k := 0 }, work := _ }) hl hd hp').2 hone
    · have hwork := (State.workLegal_after_quantise hl hd hp).1 hs
      have hp' := Seq.next_ne_quantise hp hq
      refine (State.workLegal_after_quantise (s := { s with seq := q, work := _ }) hl hd hp').2 ?_
      exact (workAfter_of_ne_quantise c j hp s.work).trans hwork

theorem scanOne_workLegal {c : Config} {s : State} (hctl : s.ControlLegal c) (hs : s.WorkLegal c) :
    (scanOne c s).WorkLegal c := by
  rcases scanOne_cases c s with ⟨-, hidle⟩ | ⟨-, j, q, hl, hq, hmove⟩ | ⟨-, -, hlast⟩
  · rwa [hidle]
  · rw [hmove]
    exact scanMove_workLegal hctl hs hl hq
  · rw [hlast]
    exact (complete_controlLegal c s).workLegal_of_idle (complete_busy c s)

theorem StepCase.workLegal {c : Config} {s s₀ t : State} (h : StepCase c s s₀ t) (hst : s₀.status = s.status)
    (hs : s₀.Inv c) (hw : s₀.WorkLegal c) : t.WorkLegal c := by
  have htctl := (h.inv hst hs).controlLegal
  cases h with
  | ignored | resized | readOut => exact hw
  | rejected | cleared | completed | wasReset => exact htctl.workLegal_of_idle rfl
  | accepted w word r => exact accept_workLegal c word r s₀
  | stored sp index v hb =>
    refine htctl.workLegal_of_idle ?_
    rw [State.writeBytes_status, hst, hb]
  | scanned n =>
    obtain ⟨-, hwork⟩ := scanMany_keeps (P := fun u => u.Inv c ∧ u.WorkLegal c)
      (fun u ⟨hu, hwu⟩ => ⟨scanOne_inv hu, scanOne_workLegal hu.controlLegal hwu⟩) n ⟨hs, hw⟩
    exact hwork

theorem stepIn_workLegal {c : Config} {s t : State} (hs : s.Inv c) (hw : s.WorkLegal c) (h : stepIn c s = .next t) :
    t.WorkLegal c := (stepIn_cases h).workLegal rfl hs hw

/-- Settles O52: the step lemma, at the default configuration and at every one. -/
theorem everyStepKeepsWorkOnTheScan : Obligations.EveryStepKeepsWorkOnTheScan :=
  ⟨fun _ _ hs hw h => stepIn_workLegal hs hw h, fun _ _ _ hs hw h => stepIn_workLegal hs hw h⟩

/-- Settles O49: the empty buffers and the idle control of `State.reset`. -/
theorem resetSatisfiesTheInvariant : Obligations.ResetSatisfiesTheInvariant :=
  fun c => ⟨reset_inv c, (State.workLegal_of_latch_none rfl).2 rfl⟩

/-! ### The order of the phases (R31, R62) -/

theorem scanOne_of_next (c : Config) {s : State} {j : Job} {q : Seq} (hb : s.status.busy = true)
    (hl : s.latch = some j) (hq : s.seq.next j = some q) :
    scanOne c s = { s with seq := q, work := workAfter c j s.seq s.work } := by
  simp only [scanOne, hb, hl, hq, if_true]

theorem scanOne_of_last (c : Config) {s : State} {j : Job} (hb : s.status.busy = true) (hl : s.latch = some j)
    (hq : s.seq.next j = none) : scanOne c s = complete c s := by
  simp only [scanOne, hb, hl, hq, if_true]

/-- Settles O53: inside the phase `Seq.next_of_lt`, after its last index `Seq.next_of_last`, where `Job.nextPhase_cases` and
`Job.last_phase` name the jobs that go on and those that end. -/
theorem scanPassesThePhasesInOrder : Obligations.ScanPassesThePhasesInOrder := by
  intro c s j n hctl hl hn
  obtain ⟨hb, -, hp, hk⟩ := (State.controlLegal_of_latch_some hl).1 hctl
  have hlen : j.phaseLen s.seq.phase = n := by
    rcases hn with ⟨hframing, rfl⟩ | ⟨hne, hpixels⟩
    · rw [hframing]
      rfl
    · rw [Job.phaseLen_of_ne_framing hp hne]
      rcases hpixels with ⟨w, h, p, rfl | rfl, rfl⟩ | ⟨w, h, rfl | rfl, rfl⟩ <;> rfl
  rw [hlen] at hk
  by_cases hin : s.seq.k + 1 < n
  · exact .inl ⟨hin, _, scanOne_of_next c hb hl (Seq.next_of_lt (hlen ▸ hin))⟩
  have hlast : s.seq.k + 1 = n := by omega
  have hnext := Seq.next_of_last (j := j) (q := s.seq) (by omega)
  cases hph : j.nextPhase s.seq.phase with
  | none =>
    rw [hph] at hnext
    exact .inr (.inr (.inr ⟨hlast, Job.last_phase hp hph, scanOne_of_last c hb hl hnext⟩))
  | some ph =>
    rw [hph] at hnext
    have hmove := scanOne_of_next c hb hl hnext
    rcases Job.nextPhase_cases hph with ⟨hquantise, rfl, hjob⟩ | ⟨hpacking, rfl, hjob⟩
    · exact .inr (.inl ⟨hlast, hquantise, hjob, _, hmove⟩)
    · exact .inr (.inr (.inl ⟨hlast, hpacking, hjob, _, hmove⟩))

/-! ### What no step writes (R27, R30) -/

theorem complete_keeps_pix (c : Config) (s : State) : (complete c s).pix = s.pix := by
  rw [complete_pix, latchedResults]
  cases s.latch with
  | none => rfl
  | some j => cases j <;> rfl

theorem scanMany_keeps_pix (c : Config) (n : Nat) (s : State) : (scanMany c n s).pix = s.pix := by
  rcases scanMany_cases c n s with ⟨q, wk, hmove⟩ | ⟨-, hdone⟩
  · rw [hmove]
  · rw [hdone, complete_keeps_pix]

/-- Settles O57: of the cases of a step only a stored byte and reset touch `PIX`. -/
theorem blockNeverWritesPix : Obligations.BlockNeverWritesPix := by
  intro s t hstep hreset hwrite
  cases step_cases hstep with
  | ignored | rejected | cleared | accepted | resized | readOut => rfl
  | stored sp index v hb hin hsp hhead =>
    cases sp with
    | pix => exact absurd hhead (hwrite index v)
    | mono | payload | frame => rfl
  | scanned n => exact scanMany_keeps_pix defaultConfig n _
  | completed => exact complete_keeps_pix defaultConfig _
  | wasReset hhead => exact absurd hhead hreset

/-- Settles O58: an idle block has no completion, so of the cases of a step only `CLR` touches the lengths and none the frame. -/
theorem idleStepsKeepTheFrame : Obligations.IdleStepsKeepTheFrame := by
  intro s t hidle hstep hreset
  cases step_cases hstep with
  | ignored | rejected | accepted | resized | readOut => exact ⟨rfl, .inl ⟨rfl, rfl⟩⟩
  | cleared w hb hhead hop => exact ⟨rfl, .inr ⟨rfl, rfl, w, hhead, hop⟩⟩
  | stored sp index v hb hin hsp =>
    refine ⟨?_, .inl ⟨State.writeBytes_flen .., State.writeBytes_plen ..⟩⟩
    cases sp with
    | pix | mono | payload => rfl
    | frame => exact absurd rfl hsp
  | scanned n =>
    rw [scanMany_idle (s := { s with inputs := s.inputs.tail }) defaultConfig n hidle]
    exact ⟨rfl, .inl ⟨rfl, rfl⟩⟩
  | completed hbusy => exact absurd (hidle.symm.trans hbusy) (by decide)
  | wasReset hhead => exact absurd hhead hreset

end Sys2Proof.Machine

/-! PROOFS of the family of 20_memory.md. First one rule per outcome of the host's accesses (R51, R52, R59, R63), then a byte
written and read back (R57, R60), then the canonical form of the buffers (R50), then what ends a running command (R62, R250). -/

namespace Sys2Proof.Machine

/-! ### Host writes of a register (R20, R59, R63) -/

theorem hostRegWrite_of_readOnly (c : Config) {index : Nat} (v : Word) (s : State)
    (h : index = 1 ∨ index = 4 ∨ index = 5 ∨ 6 ≤ index) : hostRegWrite c index v s = .next s := by
  rcases h with rfl | rfl | rfl | h
  · rfl
  · rfl
  · rfl
  · match index, h with
    | n + 6, _ => rfl

/-- Of the four outcomes of a command write a busy block has only the first (R223). -/
theorem writeCommand_of_busy (c : Config) (w : Word) {s : State} (hb : s.status.busy = true) :
    writeCommand c w s = .next s := by
  obtain ⟨t, ht, hcase⟩ := writeCommand_cases c w s
  rcases hcase with ⟨-, rfl⟩ | ⟨hidle, -⟩ | ⟨hidle, -⟩ | ⟨hidle, -⟩
  · exact ht
  all_goals exact absurd (hb.symm.trans hidle) (by decide)

theorem hostRegWrite_of_busy (c : Config) (index : Nat) (v : Word) {s : State} (hb : s.status.busy = true) :
    hostRegWrite c index v s = .next s := by
  match index with
  | 0 => exact writeCommand_of_busy c v hb
  | 2 | 3 => exact congrArg Host.Outcome.next (if_pos hb)
  | 1 | n + 4 => rfl

/-! ### Host accesses to a byte (R51, R52, R59, R63) -/

theorem hostWritable_iff (sp : Space) : hostWritable sp = true ↔ sp ≠ .frame := by
  cases sp <;> decide

theorem hostBufWrite_of_outside {c : Config} {sp : Space} {index : Nat} (h : capacity c sp ≤ index) (v : Byte) (s : State) :
    hostBufWrite c sp index v s = .refused (.bufferIndexOutOfRange sp index) := if_pos h

theorem hostBufWrite_of_ignored {c : Config} {sp : Space} {index : Nat} (hin : index < capacity c sp) (v : Byte) {s : State}
    (h : s.status.busy = true ∨ sp = .frame) : hostBufWrite c sp index v s = .next s := by
  rw [hostBufWrite, if_neg (Nat.not_le.2 hin), if_pos]
  rcases h with hb | rfl
  · rw [hb, Bool.true_or]
  · exact Bool.or_true _

theorem hostBufWrite_of_stored {c : Config} {sp : Space} {index : Nat} (hin : index < capacity c sp) (v : Byte) {s : State}
    (hb : s.status.busy = false) (hsp : sp ≠ .frame) :
    hostBufWrite c sp index v s = .next (s.writeBytes sp index [v]) := by
  rw [hostBufWrite, if_neg (Nat.not_le.2 hin), hb, (hostWritable_iff sp).2 hsp]
  rfl

theorem hostBufRead_of_outside {c : Config} {sp : Space} {index : Nat} (h : capacity c sp ≤ index) (s : State) :
    hostBufRead c sp index s = .refused (.bufferIndexOutOfRange sp index) := if_pos h

theorem hostBufRead_of_beingWritten {c : Config} {sp : Space} {index : Nat} (hin : index < capacity c sp) {s : State}
    (h : s.beingWritten sp = true) : hostBufRead c sp index s
      = .next { s with rdata := (Config.busyByte s.draws).setWidth 32, draws := s.draws + 1 } := by
  rw [hostBufRead, if_neg (Nat.not_le.2 hin), if_pos h]

theorem hostBufRead_of_not_beingWritten {c : Config} {sp : Space} {index : Nat} (hin : index < capacity c sp) {s : State}
    (h : ¬ s.beingWritten sp = true) :
    hostBufRead c sp index s = .next { s with rdata := (s.readByte sp index).setWidth 32 } := by
  rw [hostBufRead, if_neg (Nat.not_le.2 hin), if_neg h]

/-- The table of the buffers each job writes is the list of 10_state.md section 1. -/
theorem beingWritten_iff (s : State) (sp : Space) : s.beingWritten sp = true ↔ RunningCommandWrites s sp := by
  rw [State.beingWritten, RunningCommandWrites, Bool.and_eq_true, Option.any_eq_true]
  refine and_congr_right fun _ => exists_congr fun j => and_congr_right fun _ => ?_
  cases j with
  | quant | pack | frame | encode | convert => cases sp <;> simp [Job.writes]

/-- Settles O42: no arm of the register write takes those indices, and `FRAME` is no space the host may write. -/
theorem readOnlyStateIgnoresHostWrites : Obligations.ReadOnlyStateIgnoresHostWrites := by
  intro s rest index
  refine ⟨fun v hin hindex => ?_, fun v hin hindex => ?_⟩
  · exact (step_of_input hin).trans (hostRegWrite_of_readOnly defaultConfig v _ hindex)
  · exact (step_of_input hin).trans (hostBufWrite_of_ignored hindex v (.inr rfl))

/-- Settles O45: the busy cases of the two kinds of write. -/
theorem busyBlockIgnoresHostWrites : Obligations.BusyBlockIgnoresHostWrites := by
  intro c s rest index hb
  refine ⟨fun v hin => ?_, fun sp v hin hindex => ?_⟩
  · exact (stepIn_of_input c hin).trans (hostRegWrite_of_busy c index v hb)
  · exact (stepIn_of_input c hin).trans (hostBufWrite_of_ignored hindex v (.inl hb))

/-- Settles O44: the range is checked first, and each access inside it has a next state. -/
theorem outOfRangeAccessesAreRefused : Obligations.OutOfRangeAccessesAreRefused := by
  intro c s rest sp index cap hcap
  obtain rfl : cap = capacity c sp := by
    rcases hcap with ⟨rfl, rfl⟩ | ⟨rfl, rfl⟩ | ⟨rfl, rfl⟩ | ⟨rfl, rfl⟩ <;> rfl
  refine ⟨fun v hin => ?_, fun hin => ?_⟩
  all_goals
    rw [stepIn_of_input c hin, serve]
    split_ifs with hout
  · exact hostBufWrite_of_outside hout v _
  · have hinside := Nat.not_le.1 hout
    by_cases hignored : s.status.busy = true ∨ sp = .frame
    · exact ⟨_, hostBufWrite_of_ignored hinside v hignored⟩
    · obtain ⟨hb, hsp⟩ := not_or.1 hignored
      exact ⟨_, hostBufWrite_of_stored hinside v (Bool.eq_false_iff.2 hb) hsp⟩
  · exact hostBufRead_of_outside hout _
  · have hinside := Nat.not_le.1 hout
    by_cases hwritten : State.beingWritten { s with inputs := rest } sp = true
    · exact ⟨_, hostBufRead_of_beingWritten hinside hwritten⟩
    · exact ⟨_, hostBufRead_of_not_beingWritten hinside hwritten⟩

/-- Settles O46: the two cases of a read inside the buffer, told apart by `beingWritten_iff`. -/
theorem bufferReadsWhileBusy : Obligations.BufferReadsWhileBusy := by
  intro c s rest sp index hin hindex
  have hiff : State.beingWritten { s with inputs := rest } sp = true ↔ RunningCommandWrites s sp := beingWritten_iff s sp
  refine ⟨fun hwrites => ?_, fun hwrites => ?_⟩
  · exact (stepIn_of_input c hin).trans (hostBufRead_of_beingWritten hindex (hiff.2 hwrites))
  · exact (stepIn_of_input c hin).trans (hostBufRead_of_not_beingWritten hindex (mt hiff.1 hwrites))

/-! ### A byte written and read back (R50, R57, R60) -/

theorem State.readByte_writeByte_same (s : State) (sp : Space) (index : Nat) (v : Byte) :
    (s.writeBytes sp index [v]).readByte sp index = v :=
  State.readByte_writeBytes_in s sp index [v] 0 v rfl

theorem State.readByte_writeByte_of_ne (s : State) {sp sp' : Space} {index a : Nat} (v : Byte) (h : sp' ≠ sp ∨ a ≠ index) :
    (s.writeBytes sp index [v]).readByte sp' a = s.readByte sp' a := by
  by_cases hsp : sp' = sp
  · subst hsp
    have ha : a ≠ index := h.resolve_left (not_not_intro rfl)
    exact State.readByte_writeBytes_out s sp' index [v] a (ha.lt_or_gt.imp_right Nat.succ_le_of_lt)
  · exact State.readByte_writeBytes_other s index [v] a hsp

/-- Settles O43: the byte is stored, and a stored byte is read back while every other byte is as before. -/
theorem hostByteWriteIsReadBack : Obligations.HostByteWriteIsReadBack := by
  intro s rest sp index v hb hin hsp ⟨hpix, hmono, hpayload⟩
  have hindex : index < capacity defaultConfig sp := by
    cases sp with
    | pix => exact hpix rfl
    | mono => exact hmono rfl
    | payload => exact hpayload rfl
    | frame => exact absurd rfl hsp
  refine ⟨_, (step_of_input hin).trans (hostBufWrite_of_stored hindex v hb hsp),
    State.readByte_writeByte_same _ sp index v, fun sp' a hne => ?_, ?_⟩
  · exact State.readByte_writeByte_of_ne { s with inputs := rest } v hne
  · cases sp with
    | pix | mono | payload => rfl
    | frame => exact absurd rfl hsp

/-! ### The canonical form of the buffers (R50) -/

theorem State.MemoriesCanonical.writeBytes {s : State} (hs : s.MemoriesCanonical) (sp : Space) (a : Nat) (vs : List Byte) :
    (s.writeBytes sp a vs).MemoriesCanonical :=
  State.forall_buffer_writeBytes (P := fun _ m => m.wf = true) hs (Memory.writeRange_wf (hs sp) a vs)

/-- The form depends on the buffers alone. -/
theorem State.MemoriesCanonical.congr {s t : State} (hs : s.MemoriesCanonical) (hb : ∀ sp, t.buffer sp = s.buffer sp) :
    t.MemoriesCanonical := fun sp => (congrArg Memory.wf (hb sp)).trans (hs sp)

theorem quantStage_memoriesCanonical (c : Config) (w h : Nat) (p : QuantParams) {s : State} (hs : s.MemoriesCanonical) :
    (quantStage c w h p s).MemoriesCanonical := hs.writeBytes .mono 0 _

theorem packStage_memoriesCanonical (w h : Nat) {s : State} (hs : s.MemoriesCanonical) :
    (packStage w h s).MemoriesCanonical := (hs.writeBytes .payload 0 _).congr fun _ => rfl

theorem frameStage_memoriesCanonical {s : State} (hs : s.MemoriesCanonical) : (frameStage s).MemoriesCanonical :=
  (hs.writeBytes .frame 0 _).congr fun _ => rfl

theorem results_memoriesCanonical (c : Config) (j : Job) {s : State} (hs : s.MemoriesCanonical) :
    (results c s j).MemoriesCanonical := by
  cases j with
  | quant w h p => exact quantStage_memoriesCanonical c w h p hs
  | pack w h => exact packStage_memoriesCanonical w h hs
  | frame => exact frameStage_memoriesCanonical hs
  | encode w h => exact frameStage_memoriesCanonical (packStage_memoriesCanonical w h hs)
  | convert w h p =>
    exact frameStage_memoriesCanonical (packStage_memoriesCanonical w h (quantStage_memoriesCanonical c w h p hs))

theorem complete_memoriesCanonical (c : Config) {s : State} (hs : s.MemoriesCanonical) :
    (complete c s).MemoriesCanonical := by
  have hresults : (latchedResults c s).MemoriesCanonical := by
    unfold latchedResults
    cases s.latch with
    | none => exact hs
    | some j => exact results_memoriesCanonical c j hs
  exact hresults.congr fun _ => rfl

theorem scanMany_memoriesCanonical (c : Config) (n : Nat) {s : State} (hs : s.MemoriesCanonical) :
    (scanMany c n s).MemoriesCanonical := by
  rcases scanMany_cases c n s with ⟨q, wk, hmove⟩ | ⟨-, hdone⟩
  · rw [hmove]
    exact hs.congr fun _ => rfl
  · rw [hdone]
    exact complete_memoriesCanonical c hs

theorem StepCase.memoriesCanonical {c : Config} {s s₀ t : State} (h : StepCase c s s₀ t) (hs : s₀.MemoriesCanonical) :
    t.MemoriesCanonical := by
  cases h with
  | ignored | rejected | cleared | accepted | resized | readOut => exact hs.congr fun _ => rfl
  | stored sp index v => exact hs.writeBytes sp index [v]
  | scanned n => exact scanMany_memoriesCanonical c n hs
  | completed => exact complete_memoriesCanonical c hs
  | wasReset => exact State.MemoriesCanonical.congr reset_memory_wf fun _ => rfl

theorem stepIn_memoriesCanonical {c : Config} {s t : State} (hs : s.MemoriesCanonical) (h : stepIn c s = .next t) :
    t.MemoriesCanonical := (stepIn_cases h).memoriesCanonical (hs.congr fun _ => rfl)

/-- Settles O51: the step lemma, at the default configuration and at every one. -/
theorem everyStepKeepsTheBuffersCanonical : Obligations.EveryStepKeepsTheBuffersCanonical :=
  ⟨fun _ _ hs h => stepIn_memoriesCanonical hs h, fun _ _ _ hs h => stepIn_memoriesCanonical hs h⟩

/-! ### What ends a running command (R62, R63, R224, R250) -/

theorem finish_of_busy (c : Config) {s : State} (hb : s.status.busy = true) : finish c s = complete c s := if_pos hb

theorem finish_of_idle (c : Config) {s : State} (hb : s.status.busy = false) : finish c s = s :=
  if_neg (Bool.eq_false_iff.1 hb)

/-- Settles O55: with no input left the step is `finish`. -/
theorem blockLeftToItselfBecomesIdle : Obligations.BlockLeftToItselfBecomesIdle := by
  intro s hin
  refine ⟨fun hb => ⟨complete defaultConfig s, ?_, rfl, complete_busy defaultConfig s, rfl, rfl⟩, fun hb => ?_⟩
  · rw [step_of_no_input hin, finish_of_busy defaultConfig hb]
  · rw [step_of_no_input hin, finish_of_idle defaultConfig hb]

/-- The completion step neither reads nor takes the host's actions to come. -/
theorem complete_withInputs (c : Config) (s : State) (xs : List Input) :
    complete c { s with inputs := xs } = { complete c s with inputs := xs } := by
  unfold complete latchedResults
  cases hl : s.latch with
  | none => rfl
  | some j => cases j <;> rfl

/-- Settles O56: of the cases of a step those that change a register, a buffer or the latch need an idle block, except the
completion, by itself or at the end of the scan, and reset. -/
theorem onlyCompletionOrResetEndsACommand : Obligations.OnlyCompletionOrResetEndsACommand := by
  intro s t hb hstep
  cases step_cases hstep with
  | ignored | readOut => exact .inl rfl
  | rejected _ _ _ hidle | cleared _ hidle | accepted _ _ _ hidle | resized _ _ hidle | stored _ _ _ hidle =>
    exact absurd (hb.symm.trans hidle) (by decide)
  | scanned n =>
    rcases scanMany_cases defaultConfig n { s with inputs := s.inputs.tail } with ⟨q, wk, hmove⟩ | ⟨-, hdone⟩
    · rw [hmove]
      exact .inl rfl
    · rw [hdone, complete_withInputs]
      exact .inr (.inl rfl)
  | completed =>
    rw [complete_withInputs]
    exact .inr (.inl rfl)
  | wasReset hhead => exact .inr (.inr ⟨hhead, rfl⟩)

end Sys2Proof.Machine

/-! PROOFS of the family of 41_bayer_ditherer.md. First how the matrices are built and that each holds every value once (R120 to
R123), then the decision as a comparison of integers (R125), then any `QUANT` row on a legal raster, of which `Q.BAYER` is one (R88,
R112, R124). -/

namespace Sys2Proof.Machine

/-! ### The matrices (R120, R121) -/

theorem bayerLevel_succ (l r c : Nat) : bayerLevel (l + 1) r c =
    4 * bayerLevel l (r % 2 ^ (l + 1)) (c % 2 ^ (l + 1)) + bayerBase (r / 2 ^ (l + 1)) (c / 2 ^ (l + 1)) := rfl

/-- Settles O18: the base entries, and the recursion of the levels at sizes 4 and 8. -/
theorem bayerMatricesFollowTheRecursion : Obligations.BayerMatricesFollowTheRecursion :=
  ⟨by decide, fun r c _ _ => bayerLevel_succ 0 r c, fun r c _ _ => bayerLevel_succ 1 r c⟩

/-! ### Each value once (R123) -/

/-- The square matrix `f` of edge length `size` holds each of `0, …, size² - 1` in exactly one place (R123). -/
def HoldsEachValueOnce (f : Nat → Nat → Nat) (size : Nat) : Prop :=
  ∀ v, v < size * size → ∃ r c, r < size ∧ c < size ∧ f r c = v ∧
    ∀ r' c', r' < size → c' < size → f r' c' = v → r' = r ∧ c' = c

theorem bayerBase_lt_four {i j : Nat} (hi : i < 2) (hj : j < 2) : bayerBase i j < 4 := by
  have hbound : ∀ a b : Fin 2, bayerBase a b < 4 := by decide
  exact hbound ⟨i, hi⟩ ⟨j, hj⟩

theorem bayerBase_holdsEachValueOnce : HoldsEachValueOnce bayerBase 2 := by
  have hfinite : ∀ v : Fin 4, ∃ r c : Fin 2, bayerBase r c = v ∧
      ∀ r' c' : Fin 2, bayerBase r' c' = v → r' = r ∧ c' = c := by decide
  intro v hv
  obtain ⟨r, c, hrc, honly⟩ := hfinite ⟨v, hv⟩
  refine ⟨r, c, r.isLt, c.isLt, hrc, fun r' c' hr' hc' hv' => ?_⟩
  obtain ⟨hr, hc⟩ := honly ⟨r', hr'⟩ ⟨c', hc'⟩ hv'
  exact ⟨congrArg Fin.val hr, congrArg Fin.val hc⟩

/-- A coordinate in a matrix twice as large is its quadrant and its coordinate there. -/
theorem eq_of_div_mod {k a q b : Nat} (hq : a / k = q) (hb : a % k = b) : a = k * q + b := by
  rw [← hq, ← hb, Nat.div_add_mod]

/-- The recursion of R121 keeps the property: the quotient of `v` by 4 gives the place inside a quadrant, the remainder the
quadrant. -/
theorem HoldsEachValueOnce.quadrants {f : Nat → Nat → Nat} {k : Nat} (hf : HoldsEachValueOnce f k) :
    HoldsEachValueOnce (fun r c => 4 * f (r % k) (c % k) + bayerBase (r / k) (c / k)) (k * 2) := by
  intro v hv
  have hquotient : v / 4 < k * k := by
    rw [Nat.mul_mul_mul_comm] at hv
    omega
  obtain ⟨r, c, hr, hc, hrc, hinside⟩ := hf (v / 4) hquotient
  obtain ⟨i, j, hi, hj, hij, hquadrant⟩ := bayerBase_holdsEachValueOnce (v % 4) (Nat.mod_lt v (by decide))
  have hk : 0 < k := Nat.zero_lt_of_lt hr
  have hlt : ∀ {q b : Nat}, q < 2 → b < k → k * q + b < k * 2 := fun {q b} hq hb =>
    calc k * q + b < k * q + k := Nat.add_lt_add_left hb _
      _ = k * (q + 1) := (Nat.mul_succ k q).symm
      _ ≤ k * 2 := Nat.mul_le_mul_left k hq
  refine ⟨k * i + r, k * j + c, hlt hi hr, hlt hj hc, ?_, fun r' c' hr' hc' hv' => ?_⟩
  · simp only [Nat.mul_add_mod, Nat.mul_add_div hk, Nat.mod_eq_of_lt hr, Nat.mod_eq_of_lt hc, Nat.div_eq_of_lt hr,
      Nat.div_eq_of_lt hc, Nat.add_zero, hrc, hij]
    exact Nat.div_add_mod v 4
  · have hi' : r' / k < 2 := Nat.div_lt_of_lt_mul hr'
    have hj' : c' / k < 2 := Nat.div_lt_of_lt_mul hc'
    have hbase := bayerBase_lt_four hi' hj'
    have hsum : 4 * f (r' % k) (c' % k) + bayerBase (r' / k) (c' / k) = v := hv'
    obtain ⟨hri, hcj⟩ := hquadrant _ _ hi' hj' (by omega)
    obtain ⟨hrr, hcc⟩ := hinside _ _ (Nat.mod_lt r' hk) (Nat.mod_lt c' hk) (by omega)
    exact ⟨eq_of_div_mod hri hrr, eq_of_div_mod hcj hcc⟩

theorem bayerLevel_holdsEachValueOnce (l : Nat) : HoldsEachValueOnce (bayerLevel l) (2 ^ (l + 1)) := by
  induction l with
  | zero => exact bayerBase_holdsEachValueOnce
  | succ l ih => exact ih.quadrants

theorem bayer_holdsEachValueOnce (n : MatrixSize) : HoldsEachValueOnce (bayer n) n.toNat := by
  cases n with
  | n2 => exact bayerLevel_holdsEachValueOnce 0
  | n4 => exact bayerLevel_holdsEachValueOnce 1
  | n8 => exact bayerLevel_holdsEachValueOnce 2

/-- Settles O19: the two tables are evaluated, the permutation property holds at every level of the recursion. -/
theorem bayerTablesAndPermutation : Obligations.BayerTablesAndPermutation :=
  ⟨by decide, by decide, bayer_holdsEachValueOnce⟩

/-! ### The decision as a comparison of integers (R125) -/

theorem MatrixSize.toNat_pos (n : MatrixSize) : 0 < n.toNat := by cases n <;> decide

/-- The comparison of R125 multiplied by `2000 N²`, in rationals. -/
theorem ditherComparison_iff {N : Rat} (hN : 0 < N) (t l b : Rat) :
    t ≤ l / 1000 + b * 255 / (N * N) - t / 2 ↔ 3000 * (N * N) * t ≤ 2 * (N * N) * l + 510000 * b := by
  have hscaled : 2 * (N * N) * l + 510000 * b - 3000 * (N * N) * t
      = 2000 * (N * N) * (l / 1000 + b * 255 / (N * N) - t / 2 - t) := by
    field_simp
    ring
  have hscale : 0 < 2000 * (N * N) := by positivity
  rw [← sub_nonneg, ← mul_nonneg_iff_of_pos_left hscale, ← hscaled, sub_nonneg]

/-- At the default configuration the decision is the comparison of R125 with `NUM.bayerValue` and `NUM.half` written out. -/
theorem bayerDecision_default (n : MatrixSize) (t : Byte) (x y l : Nat) :
    bayerDecision defaultConfig n t x y l = decide ((t.toNat : Rat) ≤ (l : Rat) / 1000 +
      (bayer n (y % n.toNat) (x % n.toNat) : Rat) * 255 / ((n.toNat : Rat) * n.toNat) - (t.toNat : Rat) / 2) := rfl

/-- Settles O20: the rational comparison multiplied out is one of natural numbers. -/
theorem bayerDecisionIsAnIntegerComparison : Obligations.BayerDecisionIsAnIntegerComparison := by
  intro n t x y l
  have hN : (0 : Rat) < n.toNat := Nat.cast_pos.2 n.toNat_pos
  rw [bayerDecision_default, decide_eq_decide, ditherComparison_iff hN]
  exact_mod_cast Iff.rfl

/-! ### A `QUANT` row on a legal raster (R88, R112) -/

/-- Only the decisions of the raster's own pixels count. -/
theorem QuantisesTo.congr {i : Instr} {s : State} {unsup : Bool} {p : QuantParams} {d d' : Nat → Bool}
    (h : QuantisesTo i s unsup p d) (hd : ∀ q, q < s.imageW * s.imageH → d q = d' q) : QuantisesTo i s unsup p d' := by
  obtain ⟨t, u, hexec, haccepted, hstep, hfinished, honly, hmono, hframe⟩ := h
  refine ⟨t, u, hexec, haccepted, hstep, hfinished, honly, fun q hq => ?_, hframe⟩
  rw [← hd q hq]
  exact hmono q hq

/-- Every `QUANT` row on an idle block with a legal geometry runs with its effective parameters and writes the decisions of its
effective algorithm (R88, R112; default configuration, entry 3). -/
theorem quantisesTo_of_ready {i : Instr} {alg : Nibble} {t m : Byte} {inv : Bool} {s : State}
    (hi : quantFields i = some (alg, t, m, inv)) (hs : ReadyForRaster s) :
    ∃ d, DecidesIn defaultConfig (effectiveAlgorithm alg m) s.imageW (s.imageW * s.imageH) t.toNat s.luma1000 d ∧
      QuantisesTo i s (fallbackTaken alg m) (effectiveParams alg t m inv) d := by
  obtain ⟨hrequest, -⟩ := requestOf_quant hi
  obtain ⟨u, d, hstep, hfinished, honly, hdecides, hmono, hframe⟩ :=
    accept_quant_completes defaultConfig (encode i) alg t m inv s
  exact ⟨d, hdecides, accept (encode i) (.quant alg t m inv) s, u,
    exec_accepted hrequest hs.1 (hs.quant_accepted alg t m inv), accept_acceptedAs (encode i) _ s, hstep, hfinished, honly,
    hmono, hframe⟩

/-! ### `Q.BAYER` (R88, R124, R125) -/

/-- `N_raw`, the matrix size it runs as, and whether that is the fallback to 4 (R88). -/
def RunsAsSize (m : Byte) (n : MatrixSize) (unsup : Bool) : Prop :=
  (m = 2#8 ∧ n = .n2 ∧ unsup = false) ∨ (m = 4#8 ∧ n = .n4 ∧ unsup = false) ∨ (m = 8#8 ∧ n = .n8 ∧ unsup = false) ∨
    (m ≠ 2#8 ∧ m ≠ 4#8 ∧ m ≠ 8#8 ∧ n = .n4 ∧ unsup = true)

/-- The effective parameters of `Q.BAYER` are those of R88. -/
theorem RunsAsSize.effective {m : Byte} {n : MatrixSize} {unsup : Bool} (h : RunsAsSize m n unsup) :
    effectiveAlgorithm 2#4 m = .ordered n ∧ fallbackTaken 2#4 m = unsup := by
  rcases h with ⟨rfl, rfl, rfl⟩ | ⟨rfl, rfl, rfl⟩ | ⟨rfl, rfl, rfl⟩ | ⟨h2, h4, h8, rfl, rfl⟩
  · exact ⟨rfl, rfl⟩
  · exact ⟨rfl, rfl⟩
  · exact ⟨rfl, rfl⟩
  · have hnone : matrixSizeOf m = none := by rw [matrixSizeOf, if_neg h2, if_neg h4, if_neg h8]
    have halgorithm : effectiveAlgorithm 2#4 m = .ordered ((matrixSizeOf m).getD .n4) := rfl
    have hfallback : fallbackTaken 2#4 m = (matrixSizeOf m).isNone := rfl
    rw [halgorithm, hfallback, hnone]
    exact ⟨rfl, rfl⟩

/-- Settles O17: the run of a `QUANT` row, at the parameters of `Q.BAYER`. -/
theorem bayerDitheringCompletes : Obligations.BayerDitheringCompletes := by
  intro t m inv s n unsup hs hsize
  obtain ⟨halgorithm, hfallback⟩ := RunsAsSize.effective hsize
  obtain ⟨d, hdecides, hruns⟩ := quantisesTo_of_ready (i := .qBayer t m inv) (alg := 2#4) rfl hs
  rw [halgorithm] at hdecides
  rw [effectiveParams, halgorithm, hfallback] at hruns
  exact hruns.congr hdecides

end Sys2Proof.Machine

/-! PROOFS of the family of 42_error_diffusion.md. First the rules by which the sequential scan decides (R140 to R143), then that
it never comes back to a pixel it has read (R140), then the rows of the seven kernels (R145 to R151), and last the uniform rasters
(R153). -/

namespace Sys2Proof.Machine

/-! ### The scan and the declarative rules (R140 to R143) -/

theorem edInit_getD {ls : List Nat} {p : Nat} (hp : p < ls.length) :
    (edInit ls).getD p 0 = (ls.getD p 0 : Rat) / 1000 := by
  simp [edInit, lumaRat, List.getD_eq_getElem?_getD, List.getElem?_eq_getElem hp]

/-- Settles O23: the working value of a pixel as the scan reaches it is its luminance plus the shares of the pixels before it, and
its decision is taken on that value. -/
theorem sequentialScanDiffusesForEveryConfiguration : Obligations.SequentialScanDiffusesForEveryConfiguration := by
  intro c k w h t ls hlen
  refine ⟨edValueAt c k w h t.toNat (edInit ls), edDecisionAt c k w h t.toNat (edInit ls),
    edDecisions_eq_map c k w h t ls, fun p hp => ⟨?_, rfl⟩⟩
  rw [edValueAt, edWorkAfter_getD c k w h t.toNat _ p (by simpa [edInit] using hlen) hp, edInit_getD (hlen ▸ hp)]
  rfl

/-! ### A working value that was read is final (R140) -/

/-- From pixel `q` a tap to the right or downward reaches later pixels only. -/
theorem lt_of_tapTarget_eq_some {w h q r : Nat} {tap : Tap} (hforward : 0 < tap.dy ∨ (tap.dy = 0 ∧ 0 < tap.dx))
    (hr : tapTarget w h (q % w) (q / w) tap = some r) : q < r := by
  unfold tapTarget at hr
  split_ifs at hr with hinside
  obtain rfl := Option.some.inj hr
  have hw : 0 < w := by omega
  rcases hforward with hdown | ⟨hsame, hright⟩
  · calc q < (q / w + tap.dy) * w := (Nat.div_lt_iff_lt_mul hw).1 (Nat.lt_add_of_pos_right hdown)
      _ ≤ _ := Nat.le_add_right _ _
  · have hq : q / w * w + q % w = q := Nat.div_add_mod' q w
    rw [hsame, Nat.add_zero]
    omega

/-- The scan's pixel `q` changes no working value up to its own. -/
theorem ForwardKernel.edPixel_getD {k : Kernel} (hk : ForwardKernel k) (c : Config) (w h t : Nat) {p q : Nat} (hpq : p ≤ q)
    (work : List Rat) : (edPixel c k w h t q work).getD p 0 = work.getD p 0 := by
  by_cases hp : p < work.length
  · have hmissed : ∀ tap ∈ k.taps, tapTarget w h (q % w) (q / w) tap ≠ some p := fun tap htap hhit =>
      absurd (lt_of_tapTarget_eq_some (hk tap htap) hhit) (by omega)
    rw [edPixel, edSpread_getD _ _ _ _ _ _ _ _ _ hp, List.map_congr_left fun tap htap => if_neg (hmissed tap htap)]
    simp
  · rw [List.getD_eq_default _ _ (by simpa using hp), List.getD_eq_default _ _ (by omega)]

theorem ForwardKernel.edWorkAfter_getD {k : Kernel} (hk : ForwardKernel k) (c : Config) (w h t : Nat) (init : List Rat)
    {p n : Nat} (hpn : p ≤ n) :
    (edWorkAfter c k w h t init n).getD p 0 = (edWorkAfter c k w h t init p).getD p 0 := by
  induction n, hpn using Nat.le_induction with
  | base => rfl
  | succ n hpn ih => rw [edWorkAfter, hk.edPixel_getD c w h t hpn, ih]

theorem forwardKernel_default (name : KernelName) : ForwardKernel (kernelOf defaultConfig name) := by
  unfold ForwardKernel
  cases name <;> decide

/-- Settles O24: every pixel from `p` on leaves the value of `p` alone; the seven kernels are checked tap by tap. -/
theorem decidedWorkingValuesAreFinal : Obligations.DecidedWorkingValuesAreFinal :=
  ⟨fun c _ w h t init _ _ hk hpn => hk.edWorkAfter_getD c w h t init hpn, forwardKernel_default⟩

/-! ### The kernels (R145 to R151) -/

/-- Settles O25: the sums are evaluated. -/
theorem kernelNumeratorsSum : Obligations.KernelNumeratorsSum :=
  ⟨rfl, rfl, rfl, rfl, rfl, rfl, rfl, rfl⟩

/-- At the default configuration error diffusion decides by `DiffusesTo`: `NUM.share` is the exact share and a tie is white (R141,
R143; entry 3). -/
theorem decidesIn_default_diffusion {k : KernelName} {w n t : Nat} {lum : Nat → Nat} {d : Nat → Bool} :
    DecidesIn defaultConfig (.diffusion k) w n t lum d ↔
      ∃ v, DiffusesTo (kernelOf defaultConfig k) w n t lum v d := Iff.rfl

/-- A `QUANT` row whose algorithm is error diffusion, on an idle block with a legal geometry: it runs, and its decisions are those
of the declarative rules with its kernel (R112, R140 to R144; default configuration, entry 3). -/
theorem diffusion_quantisesTo {i : Instr} {alg : Nibble} {t m : Byte} {inv : Bool} {s : State} {k : KernelName}
    (hi : quantFields i = some (alg, t, m, inv)) (halgorithm : effectiveAlgorithm alg m = .diffusion k)
    (hsupported : fallbackTaken alg m = false) (hs : ReadyForRaster s) :
    ∃ v d, DiffusesTo (kernelOf defaultConfig k) s.imageW (s.imageW * s.imageH) t.toNat s.luma1000 v d ∧
      QuantisesTo i s false ⟨.diffusion k, t, inv⟩ d := by
  obtain ⟨d, hdecides, hruns⟩ := quantisesTo_of_ready hi hs
  rw [halgorithm] at hdecides
  rw [effectiveParams, halgorithm, hsupported] at hruns
  obtain ⟨v, hdiffuses⟩ := decidesIn_default_diffusion.1 hdecides
  exact ⟨v, d, hdiffuses, hruns⟩

/-- Settles O21: the three rows with a printed kernel. -/
theorem printedKernelsDiffuseTheError : Obligations.PrintedKernelsDiffuseTheError := fun t m inv _ hs =>
  ⟨diffusion_quantisesTo (i := .qFs t m inv) rfl rfl rfl hs, diffusion_quantisesTo (i := .qAtk t m inv) rfl rfl rfl hs,
    diffusion_quantisesTo (i := .qSil t m inv) rfl rfl rfl hs⟩

/-- Settles O22: the four rows with a presumed kernel. -/
theorem publishedKernelsDiffuseTheError : Obligations.PublishedKernelsDiffuseTheError := fun t m inv _ hs =>
  ⟨diffusion_quantisesTo (i := .qJar t m inv) rfl rfl rfl hs, diffusion_quantisesTo (i := .qStu t m inv) rfl rfl rfl hs,
    diffusion_quantisesTo (i := .qBur t m inv) rfl rfl rfl hs, diffusion_quantisesTo (i := .qSie t m inv) rfl rfl rfl hs⟩

/-! ### Uniform rasters (R153)

A working value that its decision represents without error gives its neighbours nothing, so a raster of such values passes the
scan unchanged. -/

/-- The decision on the working value `g` is `d` and leaves no error (R141, R142). -/
def DecidedExactly (t : Nat) (g : Rat) (d : Bool) : Prop := d = decide ((t : Rat) ≤ g) ∧ errorOf g d = 0

theorem decidedExactly_black {t : Nat} (ht : 1 ≤ t) : DecidedExactly t 0 false := by
  have hbelow : ¬ (t : Rat) ≤ 0 := not_le.2 (by exact_mod_cast ht)
  exact ⟨(decide_eq_false hbelow).symm, rfl⟩

theorem decidedExactly_white (t : Byte) : DecidedExactly t.toNat 255 true := by
  have habove : (t.toNat : Rat) ≤ 255 := by exact_mod_cast Nat.le_of_lt_succ t.isLt
  exact ⟨(decide_eq_true habove).symm, sub_self 255⟩

/-- Where every pixel before `p` left no error, `p` has received nothing. -/
theorem receivedBefore_eq_zero (k : Kernel) (w : Nat) {v : Nat → Rat} {d : Nat → Bool} {p : Nat}
    (herror : ∀ q, q < p → errorOf (v q) (d q) = 0) : receivedBefore k w v d p = 0 := by
  refine List.sum_eq_zero fun x hx => ?_
  obtain ⟨q, hq, rfl⟩ := List.mem_map.1 hx
  simp [herror q (List.mem_range.1 hq)]

/-- A uniform raster whose luminance is decided exactly gets that decision everywhere. -/
theorem DiffusesTo.of_uniform {k : Kernel} {w n t l : Nat} {lum : Nat → Nat} {v : Nat → Rat} {d : Nat → Bool} {g : Rat}
    {b : Bool} (h : DiffusesTo k w n t lum v d) (hlum : ∀ p, p < n → lum p = l) (hl : (l : Rat) / 1000 = g)
    (hg : DecidedExactly t g b) : ∀ p, p < n → v p = g ∧ d p = b := by
  intro p
  induction p using Nat.strong_induction_on with
  | _ p ih =>
    intro hp
    obtain ⟨hv, hd⟩ := h p hp
    have hreceived : receivedBefore k w v d p = 0 := receivedBefore_eq_zero k w fun q hq => by
      obtain ⟨hvq, hdq⟩ := ih q hq (hq.trans hp)
      rw [hvq, hdq, hg.2]
    rw [hreceived, hlum p hp, hl, add_zero] at hv
    exact ⟨hv, by rw [hd, hv, hg.1]⟩

/-- No error, no share: the working buffer stays as it is (R143; default `NUM.share`). -/
theorem edSpread_zero (k : Kernel) (w h x y : Nat) (work : List Rat) :
    edSpread defaultConfig k w h x y 0 work = work := by
  have hshare : ∀ n d, defaultConfig.share 0 n d = 0 := fun n d => by simp [defaultConfig]
  refine List.foldl_fixed' (fun tap => ?_) k.taps
  unfold edApplyTap
  split
  · simp only [hshare, add_zero]
    exact List.modify_id _ work
  · rfl

/-- A working buffer whose every value is decided exactly passes the scan unchanged; a pixel after the last reads as 0. -/
theorem edWorkAfter_of_decidedExactly (k : Kernel) (w h t : Nat) {init : List Rat}
    (hinit : ∀ p, ∃ b, DecidedExactly t (init.getD p 0) b) (n : Nat) : edWorkAfter defaultConfig k w h t init n = init := by
  induction n with
  | zero => rfl
  | succ n ih =>
    obtain ⟨b, hb, herror⟩ := hinit n
    have hdecision : edPixelDecision defaultConfig t n init = b := hb.symm
    rw [edWorkAfter, ih, edPixel, edError_eq_errorOf, hdecision, herror, edSpread_zero]

/-- The working values of a uniform raster stay what they are created as, throughout the scan. -/
theorem edWorkAfter_of_uniform (k : Kernel) {w h t l : Nat} {s : State} {g : Rat} {b : Bool} (ht : 1 ≤ t)
    (hlum : ∀ p, p < w * h → s.luma1000 p = l) (hl : (l : Rat) / 1000 = g) (hg : DecidedExactly t g b) (n : Nat) {p : Nat}
    (hp : p < w * h) : (edWorkAfter defaultConfig k w h t (edInit (s.lumas (w * h))) n).getD p 0 = g := by
  have hcreated : ∀ q, q < w * h → (edInit (s.lumas (w * h))).getD q 0 = g := fun q hq => by
    rw [edInit_lumas_getD s hq, hlum q hq, hl]
  rw [edWorkAfter_of_decidedExactly k w h t (fun q => ?_) n, hcreated p hp]
  by_cases hq : q < w * h
  · exact ⟨b, (hcreated q hq).symm ▸ hg⟩
  · rw [List.getD_eq_default _ _ (by simpa [edInit] using hq)]
    exact ⟨false, decidedExactly_black ht⟩

/-- An error-diffusion row on a raster of one luminance that is decided exactly: it writes that decision everywhere, and no pixel
has an error at any place of the scan. -/
theorem uniform_quantisesTo {i : Instr} {alg : Nibble} {t m : Byte} {inv : Bool} {s : State} {k : KernelName} {l : Nat} {g : Rat}
    {b : Bool} (hi : quantFields i = some (alg, t, m, inv)) (halgorithm : effectiveAlgorithm alg m = .diffusion k)
    (hsupported : fallbackTaken alg m = false) (hs : ReadyForRaster s) (ht : 1 ≤ t.toNat) (hl : (l : Rat) / 1000 = g)
    (hg : DecidedExactly t.toNat g b) (hlum : ∀ p, p < s.imageW * s.imageH → s.luma1000 p = l) :
    QuantisesTo i s false ⟨.diffusion k, t, inv⟩ (fun _ => b) ∧
      ∀ n p, p < s.imageW * s.imageH → ∃ v, v = (edWorkAfter defaultConfig (kernelOf defaultConfig k) s.imageW s.imageH
        t.toNat (edInit (s.lumas (s.imageW * s.imageH))) n).getD p 0 ∧ v = g ∧
        errorOf v (decide ((t.toNat : Rat) ≤ v)) = 0 := by
  obtain ⟨v, d, hdiffuses, hruns⟩ := diffusion_quantisesTo hi halgorithm hsupported hs
  refine ⟨hruns.congr fun q hq => (hdiffuses.of_uniform hlum hl hg q hq).2, fun n p hp => ⟨g, ?_, rfl, ?_⟩⟩
  · exact (edWorkAfter_of_uniform _ ht hlum hl hg n hp).symm
  · rw [← hg.1, hg.2]

/-- The seven `ALG` values of error diffusion each name a kernel, whatever `MSIZE`, and are supported (R84, R88). -/
theorem effectiveAlgorithm_diffusion {alg : Nibble}
    (h : alg = 1#4 ∨ alg = 3#4 ∨ alg = 4#4 ∨ alg = 5#4 ∨ alg = 6#4 ∨ alg = 7#4 ∨ alg = 8#4) (m : Byte) :
    ∃ k, effectiveAlgorithm alg m = .diffusion k ∧ fallbackTaken alg m = false := by
  rcases h with rfl | rfl | rfl | rfl | rfl | rfl | rfl
  all_goals exact ⟨_, rfl, rfl⟩

/-- Settles O26: black and white are the two luminances that are decided exactly. -/
theorem uniformRastersPassErrorDiffusion : Obligations.UniformRastersPassErrorDiffusion := by
  intro i alg t m inv s hi halg ht hs
  obtain ⟨k, halgorithm, hsupported⟩ := effectiveAlgorithm_diffusion halg m
  exact ⟨k, uniform_quantisesTo hi halgorithm hsupported hs ht (by norm_num) (decidedExactly_black ht),
    uniform_quantisesTo hi halgorithm hsupported hs ht (by norm_num) (decidedExactly_white t)⟩

end Sys2Proof.Machine

/-! PROOFS of the family of 43_raster_bit_packer.md. First the run of `PACK` from its write to its completion (R170 to R175), then
each bit of the payload as a function of its place in the visiting order, so that the bits of the raster settle the bytes (R177). -/

namespace Sys2Proof.Machine

/-! ### `PACK` from its write to its completion (R170) -/

/-- Only the bytes of `PAYLOAD` count. -/
theorem PacksRaster.congr {m u u' : State} {w h : Nat} (hpacks : PacksRaster m u w h)
    (hpayload : ∀ a, u'.readByte .payload a = u.readByte .payload a) : PacksRaster m u' w h := by
  unfold PacksRaster at hpacks ⊢
  simpa only [hpayload] using hpacks

/-- After a `PACK` has completed, `PAYLOAD` reads as its packing stage left it. -/
theorem afterCompletion_pack_readByte_payload (c : Config) (word : Word) (s : State) (a : Nat) :
    (afterCompletion c word .pack s).readByte .payload a = (packStage s.imageW s.imageH s).readByte .payload a :=
  State.readByte_congr rfl rfl a

/-- Settles O30: acceptance and completion of the request, with the payload of the packing stage. -/
theorem packCompletes : Obligations.PackCompletes := by
  intro alg t m inv s hs
  have hpayload := afterCompletion_pack_readByte_payload defaultConfig (encode (.pack alg t m inv)) s
  refine ⟨accept (encode (.pack alg t m inv)) .pack s, afterCompletion defaultConfig (encode (.pack alg t m inv)) .pack s,
    exec_accepted rfl hs.1 hs.pack_accepted, accept_acceptedAs _ .pack s, step_accept _ .pack s,
    afterCompletion_finishedAs _ _ .pack s, rfl, rfl, rfl, rfl, ?_, fun a ha => ?_⟩
  · exact (packStage_packsRaster s.imageW s.imageH s).congr hpayload
  · rw [hpayload, packStage_readByte_payload_out s.imageW s.imageH s a ha]

/-! ### The payload bit by bit (R177) -/

/-- The index in `MONO` of the `k`-th pixel the packer visits: column `k / h` of the mirrored raster, row `k % h` (R171, R172). -/
def visitedPixel (w h k : Nat) : Nat := k % h * w + (w - 1 - k / h)

theorem visitedPixel_lt {w h k : Nat} (hk : k < w * h) : visitedPixel w h k < w * h := by
  have hh : 0 < h := Nat.pos_of_lt_mul_left hk
  have hw : 0 < w := Nat.pos_of_lt_mul_right hk
  have hcolumn : w - 1 - k / h < w := (Nat.sub_le _ _).trans_lt (Nat.sub_one_lt_of_lt hw)
  calc visitedPixel w h k < k % h * w + w := Nat.add_lt_add_left hcolumn _
    _ = (k % h + 1) * w := (Nat.succ_mul _ w).symm
    _ ≤ h * w := Nat.mul_le_mul_right w (Nat.mod_lt k hh)
    _ = w * h := Nat.mul_comm h w

/-- The two clauses of `PacksRaster` as one: every bit of the packed bytes is that of the pixel visited there, and 0 after the last
pixel (R172 to R175). -/
theorem PacksRaster.getLsbD {m u : State} {w h k : Nat} (hpacks : PacksRaster m u w h) (hk : k < 8 * ((w * h + 7) / 8)) :
    (u.readByte .payload (k / 8)).getLsbD (7 - k % 8)
      = decide (k < w * h ∧ 128 < (m.readByte .mono (visitedPixel w h k)).toNat) := by
  obtain ⟨hpixels, hpadding⟩ := hpacks
  by_cases hin : k < w * h
  · have hplace : k / h * h + k % h = k := Nat.div_add_mod' k h
    have hx : k / h < w := Nat.div_lt_of_lt_mul (by rwa [Nat.mul_comm])
    have hbit := hpixels (k / h) (k % h) hx (Nat.mod_lt k (Nat.pos_of_lt_mul_left hin))
    rw [hplace] at hbit
    simpa only [hin, true_and, visitedPixel] using hbit
  · simpa only [hin, false_and, decide_false] using hpadding k (Nat.le_of_not_lt hin) hk

/-- Rasters of the same size and the same bits are packed into the same bytes. -/
theorem PacksRaster.readByte_eq {m u m' u' : State} {w h : Nat} (hpacks : PacksRaster m u w h)
    (hpacks' : PacksRaster m' u' w h)
    (hbits : ∀ p, p < w * h → (128 < (m'.readByte .mono p).toNat ↔ 128 < (m.readByte .mono p).toNat))
    {j : Nat} (hj : j < (w * h + 7) / 8) : u'.readByte .payload j = u.readByte .payload j := by
  refine BitVec.eq_of_getLsbD_eq fun i hi => ?_
  -- bit `i` of byte `j` is the place `8 j + (7 - i)` of the visiting order
  have hk : 8 * j + (7 - i) < 8 * ((w * h + 7) / 8) := by omega
  have hbyte : (8 * j + (7 - i)) / 8 = j := by omega
  have hbit : 7 - (8 * j + (7 - i)) % 8 = i := by omega
  have hsame := hpacks'.getLsbD hk
  rw [decide_eq_decide.2 (and_congr_right fun hin => hbits _ (visitedPixel_lt hin)), ← hpacks.getLsbD hk] at hsame
  rwa [hbyte, hbit] at hsame

/-- Settles O31: both runs are those of `packCompletes`, and their payloads pack rasters of the same bits. -/
theorem packDependsOnMonoBitsOnly : Obligations.PackDependsOnMonoBitsOnly := by
  intro alg t m inv s s' hs hs' hwidth hheight hbits
  obtain ⟨a, u, hexec, -, hstep, -, -, -, -, -, hpacks, -⟩ := packCompletes alg t m inv s hs
  obtain ⟨a', u', hexec', -, hstep', -, -, -, -, -, hpacks', -⟩ := packCompletes alg t m inv s' hs'
  have hw : s'.imageW = s.imageW := congrArg BitVec.toNat hwidth
  have hh : s'.imageH = s.imageH := congrArg BitVec.toNat hheight
  rw [hw, hh] at hpacks'
  exact ⟨a, u, a', u', hexec, hstep, hexec', hstep', fun j hj => hpacks.readByte_eq hpacks' hbits hj⟩

end Sys2Proof.Machine

/-! PROOFS of the family of 44_protocol_framer.md. First `CLR` and the one check of `FRAME`, then the run of any accepted command, of
which `FRAME` and `ENCODE` are two (R185, R188), and last `CONVERT` as the sequence of its parts (R189, R191). -/

namespace Sys2Proof.Machine

/-! ### `CLR` and the check of `FRAME` (R190, R216 line 6) -/

theorem clear_of_busy {s : State} (hb : s.status.busy = true) : clear s = s := if_pos hb

/-- Settles O38: `CLR` is `clear`, idle or busy. -/
theorem clrZeroesTheSixRegisters : Obligations.ClrZeroesTheSixRegisters := by
  intro alg t m inv s
  refine ⟨fun hb => ?_, fun hb => ?_⟩
  · rw [exec_clr, clear_of_idle hb]
    rfl
  · rw [exec_clr, clear_of_busy hb]

/-- Settles O13: the branches of `rejection_frame`. -/
theorem frameChecksThePayloadLengthOnly : Obligations.FrameChecksThePayloadLengthOnly := by
  intro alg t m inv s hb
  have hcheck := rejection_frame defaultConfig s
  refine ⟨_, exec_eq_issue rfl s, ?_⟩
  split_ifs at hcheck ⊢ with hlength
  · rw [issue_of_rejected hb hcheck]
    exact reject_rejectedAs _ .targetMismatch s
  · rw [issue_of_accepted hb hcheck]
    rfl

/-! ### An accepted command from its write to its completion (R38, R62) -/

/-- The command `i`, issued in `s`, is accepted with this `UNSUP`, latched job and first phase, the next step of the block left to
itself completes it, and `u` is the state after that step. -/
def RunsTo (i : Instr) (s u : State) (unsup : Bool) (j : Job) (ph : Phase) : Prop :=
  ∃ a, exec i s = .next a ∧ AcceptedAs s a (encode i) unsup j ph ∧ step { a with inputs := [] } = .next u ∧
    FinishedAs s u (encode i) unsup

/-- A command whose request passes its checks runs to the results of its job. -/
theorem runsTo_afterCompletion {i : Instr} {r : Request} {s : State} (hi : requestOf i = some r) (hb : s.status.busy = false)
    (hr : rejection defaultConfig r s = none) :
    RunsTo i s (afterCompletion defaultConfig (encode i) r s) r.unsup (r.job s.imageW s.imageH)
      (r.job s.imageW s.imageH).firstPhase :=
  ⟨accept (encode i) r s, exec_accepted hi hb hr, accept_acceptedAs _ r s, step_accept _ r s,
    afterCompletion_finishedAs _ _ r s⟩

/-- After a command has completed every byte reads as its last stage left it. -/
theorem afterCompletion_readByte (c : Config) (word : Word) (r : Request) (s : State) (sp : Space) (a : Nat) :
    (afterCompletion c word r s).readByte sp a = (results c s (r.job s.imageW s.imageH)).readByte sp a :=
  State.readByte_congr (by cases sp <;> rfl) rfl a

/-! ### `FRAME` (R185) -/

/-- Only the bytes of `PAYLOAD` and of `FRAME` count. -/
theorem HoldsFrameOf.congr {m m' u u' : State} (h : HoldsFrameOf m u)
    (hpayload : ∀ a, m'.readByte .payload a = m.readByte .payload a)
    (hframe : ∀ a, u'.readByte .frame a = u.readByte .frame a) : HoldsFrameOf m' u' := by
  obtain ⟨hheader, hbytes, htrailer⟩ := h
  refine ⟨?_, fun j hj => ?_, ?_⟩
  · simpa only [hframe] using hheader
  · rw [hframe, hpayload, hbytes j hj]
  · simpa only [hframe] using htrailer

/-- Settles O32: the run of an accepted request, with the frame of the framing stage. -/
theorem frameCompletes : Obligations.FrameCompletes := by
  intro alg t m inv s hb hplen
  have haccepted : rejection defaultConfig .frame s = none := by rw [rejection_frame, if_neg (not_not.2 hplen)]
  obtain ⟨a, hexec, haccept, hstep, hfinished⟩ := runsTo_afterCompletion (i := .frame alg t m inv) rfl hb haccepted
  exact ⟨a, _, hexec, haccept, hstep, hfinished, frameStage_mono s, frameStage_payload s, frameStage_plen s, frameStage_flen s,
    (frameStage_holdsFrame s).congr (fun _ => rfl) (afterCompletion_readByte _ _ .frame s .frame)⟩

/-! ### Packing and framing as one (R188, R191) -/

theorem frameStage_readByte_mono (s : State) (a : Nat) : (frameStage s).readByte .mono a = s.readByte .mono a :=
  State.readByte_congr rfl rfl a

theorem frameStage_readByte_payload (s : State) (a : Nat) : (frameStage s).readByte .payload a = s.readByte .payload a :=
  State.readByte_congr rfl rfl a

theorem packStage_readByte_mono (w h : Nat) (s : State) (a : Nat) :
    (packStage w h s).readByte .mono a = s.readByte .mono a :=
  State.readByte_congr rfl rfl a

/-- `u` is the raster of `m` packed and framed: the payload, the rest of its buffer, and the frame of that payload. -/
def PacksAndFrames (m u : State) (w h : Nat) : Prop :=
  PacksRaster m u w h ∧ UnchangedFrom m u .payload ((w * h + 7) / 8) ∧ HoldsFrameOf u u

/-- The frame is that of the payload just packed. -/
theorem packsAndFrames_of_readByte {m u : State} {w h : Nat}
    (hu : ∀ sp a, u.readByte sp a = (frameStage (packStage w h m)).readByte sp a) : PacksAndFrames m u w h := by
  have hpayload : ∀ a, u.readByte .payload a = (packStage w h m).readByte .payload a := fun a =>
    (hu .payload a).trans (frameStage_readByte_payload _ a)
  refine ⟨(packStage_packsRaster w h m).congr hpayload, fun a ha => ?_, ?_⟩
  · rw [hpayload, packStage_readByte_payload_out w h m a ha]
  · exact (frameStage_holdsFrame (packStage w h m)).congr hpayload (hu .frame)

/-- The payload length of a 240 by 96 raster (R3, R25). -/
theorem ReadyForFrame.packedLen_eq {s : State} (hs : ReadyForFrame s) : packedLen (s.imageW * s.imageH) = 2880 := by
  rw [hs.imageW, hs.imageH]
  rfl

/-- `ENCODE` on an idle block with the geometry 240 by 96 runs (R188, R216). -/
theorem ReadyForFrame.encode_runsTo {s : State} (hs : ReadyForFrame s) (alg : Nibble) (t m : Byte) (inv : Bool) :
    RunsTo (.encode alg t m inv) s (afterCompletion defaultConfig (encode (.encode alg t m inv)) .encode s) false
      (.encode 240 96) .packing := by
  have hruns := runsTo_afterCompletion (i := .encode alg t m inv) rfl hs.1 hs.encode_accepted
  rwa [hs.imageW, hs.imageH] at hruns

/-- Settles O33: the run of an accepted request, with the payload and the frame of its two stages. -/
theorem encodeCompletes : Obligations.EncodeCompletes := by
  intro alg t m inv s hs
  obtain ⟨a, hexec, haccept, hstep, hfinished⟩ := hs.encode_runsTo alg t m inv
  have hstages := packsAndFrames_of_readByte
    (afterCompletion_readByte defaultConfig (encode (.encode alg t m inv)) .encode s)
  rw [hs.imageW, hs.imageH] at hstages
  obtain ⟨hpacks, hrest, hframe⟩ := hstages
  have hmono := (frameStage_mono (packStage s.imageW s.imageH s)).trans (packStage_mono s.imageW s.imageH s)
  exact ⟨a, _, hexec, haccept, hstep, hfinished, hmono, congrArg (BitVec.ofNat 32) hs.packedLen_eq, hpacks, hrest, rfl, hframe⟩

/-! ### `CONVERT` (R189, R191) -/

/-- `CONVERT` on an idle block with the geometry 240 by 96 runs (R189, R216). -/
theorem ReadyForFrame.convert_runsTo {s : State} (hs : ReadyForFrame s) (alg : Nibble) (t m : Byte) (inv : Bool) :
    RunsTo (.convert alg t m inv) s
      (afterCompletion defaultConfig (encode (.convert alg t m inv)) (.convert alg t m inv) s) (fallbackTaken alg m)
      (.convert 240 96 (effectiveParams alg t m inv)) .quantise := by
  have hruns := runsTo_afterCompletion (i := .convert alg t m inv) rfl hs.1 (hs.convert_accepted alg t m inv)
  rwa [hs.imageW, hs.imageH] at hruns

/-- A command that completed leaves the geometry alone and the block idle. -/
theorem ReadyForFrame.of_finished {s u : State} {word : Word} {unsup : Bool} (hs : ReadyForFrame s)
    (hu : FinishedAs s u word unsup) : ReadyForFrame u := by
  obtain ⟨-, hwidth, hheight⟩ := hs
  have hidle : u.status.busy = false := congrArg (fun v : State => v.status.busy) hu
  exact ⟨hidle, (congrArg State.width hu).trans hwidth, (congrArg State.height hu).trans hheight⟩

/-- The stages read the buffers, the reset count and the geometry alone, so those of `CONVERT` do what `ENCODE` does after `QUANT`
has completed: the end states differ in `CMD` and `UNSUP` (R189). -/
theorem afterCompletion_convert (c : Config) (wq we wc : Word) (alg : Nibble) (t m : Byte) (inv : Bool) (s : State) :
    afterCompletion c wc (.convert alg t m inv) s =
      { afterCompletion c we .encode (afterCompletion c wq (.quant alg t m inv) s) with
        cmd := wc
        status := (Status.accepted (fallbackTaken alg m)).completed } := rfl

/-- Settles O34: the three runs, and the end state of the last by `afterCompletion_convert`. -/
theorem convertEqualsQuantThenEncode : Obligations.ConvertEqualsQuantThenEncode := by
  intro alg t m inv s hs
  obtain ⟨hrequest, -⟩ := requestOf_decodeQuant alg t m inv
  obtain ⟨a, hexecQ, -, hstepQ, hfinishedQ⟩ := runsTo_afterCompletion hrequest hs.1 (hs.raster.quant_accepted alg t m inv)
  obtain ⟨b, hexecE, -, hstepE, -⟩ := (hs.of_finished hfinishedQ).encode_runsTo 0 0 0 false
  obtain ⟨x, hexecC, hacceptC, hstepC, -⟩ := hs.convert_runsTo alg t m inv
  exact ⟨a, _, b, _, x, _, hexecQ, hstepQ, hexecE, hstepE, hexecC, hacceptC, hstepC,
    afterCompletion_convert _ _ _ _ alg t m inv s⟩

/-! ### An all-white page (95_test_vectors.md P2) -/

/-- The flat quantiser, not inverted, turns a white raster into 0xFF bytes (R113, R114). -/
theorem quantStage_flat_white (c : Config) {w h : Nat} (t : Byte) {s : State}
    (hwhite : ∀ q, q < w * h → s.luma1000 q = 255000) {p : Nat} (hp : p < w * h) :
    (quantStage c w h ⟨.flat, t, false⟩ s).readByte .mono p = 0xFF#8 := by
  obtain ⟨d, hdecides, hlist⟩ := quantDecisions_decidesIn c w h ⟨.flat, t, false⟩ s
  have hd : d p = decide (102000 < s.luma1000 p) := hdecides p hp
  rw [hwhite p hp] at hd
  rw [quantStage_readByte_mono c w h _ s p (d p) (hlist p hp), hd]
  rfl

/-- A byte all of whose eight pixels are white packs to 0xFF (R173, R174). -/
theorem PacksRaster.readByte_white {m u : State} {w h : Nat} (hpacks : PacksRaster m u w h)
    (hwhite : ∀ p, p < w * h → 128 < (m.readByte .mono p).toNat) {j : Nat} (hj : 8 * j + 8 ≤ w * h) :
    u.readByte .payload j = 0xFF#8 := by
  refine BitVec.eq_of_getLsbD_eq (y := BitVec.allOnes 8) fun i hi => ?_
  -- bit `i` of byte `j` is the place `8 j + (7 - i)` of the visiting order
  have hr : 7 - i < 8 := Nat.lt_succ_of_le (Nat.sub_le 7 i)
  have hk : 8 * j + (7 - i) < w * h := (Nat.add_lt_add_left hr _).trans_le hj
  have hbyte : (8 * j + (7 - i)) / 8 = j := by rw [Nat.mul_add_div (Nat.succ_pos 7), Nat.div_eq_of_lt hr, Nat.add_zero]
  have hplace : 7 - (8 * j + (7 - i)) % 8 = i := by
    rw [Nat.mul_add_mod, Nat.mod_eq_of_lt hr, Nat.sub_sub_self (Nat.le_of_lt_succ hi)]
  have hbit := hpacks.getLsbD (k := 8 * j + (7 - i)) (by omega)
  rw [hbyte, hplace, decide_eq_true ⟨hk, hwhite _ (visitedPixel_lt hk)⟩] at hbit
  rw [hbit, BitVec.getLsbD_allOnes, decide_eq_true hi]

/-- Settles O35: the run of `CONVERT`, whose quantiser writes 0xFF bytes, which pack to 0xFF bytes. -/
theorem allWhiteRasterConvertsToTheKnownFrame : Obligations.AllWhiteRasterConvertsToTheKnownFrame := by
  intro t m s hs hwhite
  obtain ⟨a, hexec, -, hstep, hfinished⟩ := hs.convert_runsTo 0 t m false
  have hread := afterCompletion_readByte defaultConfig (encode (.convert 0 t m false)) (.convert 0 t m false) s
  rw [hs.imageW, hs.imageH] at hread
  obtain ⟨hpacks, -, hframe⟩ := packsAndFrames_of_readByte hread
  have hmono : ∀ p, p < 240 * 96 →
      (quantStage defaultConfig 240 96 (effectiveParams 0 t m false) s).readByte .mono p = 0xFF#8 := fun p hp =>
    quantStage_flat_white defaultConfig t hwhite hp
  refine ⟨a, _, hexec, hstep, hfinished, congrArg (BitVec.ofNat 32) hs.packedLen_eq, rfl, fun p hp => ?_,
    fun j hj => ?_, hframe⟩
  · rw [hread .mono p, ← hmono p hp]
    exact (frameStage_readByte_mono _ p).trans (packStage_readByte_mono 240 96 _ p)
  · refine hpacks.readByte_white (fun p hp => ?_) (by omega)
    rw [hmono p hp, BitVec.toNat_ofNat]
    omega

end Sys2Proof.Machine

/-! PROOFS of the family of 70_reset_and_hazards.md. First reset, which discards the block's whole state (R250), then writing the same
bytes again and running the same stage again, neither of which changes anything, from which a command issued again on a page ends in
the very same state (R263). -/

namespace Sys2Proof.Machine

/-! ### Reset (R36, R250) -/

/-- Every register reads after a reset as it does in the machine's first state. -/
theorem resetBlock_readReg (s : State) (index : Nat) : (resetBlock s).readReg index = 0#32 := by
  obtain ⟨hregisters, -, -⟩ := resetLeavesTheStatedValues
  exact hregisters index

/-- No byte is written since the reset, so every byte is the draw of that reset (R36). -/
theorem resetBlock_readByte (s : State) (sp : Space) (a : Nat) :
    (resetBlock s).readByte sp a = Config.resetByte (s.epoch + 1) sp a := by
  cases sp <;> rfl

/-- Settles O48: the step is `resetBlock`, whatever the state it finds. -/
theorem resetArrivesAtAnyTime : Obligations.ResetArrivesAtAnyTime := by
  intro s rest hin
  exact ⟨resetBlock { s with inputs := rest }, step_of_input hin, resetBlock_readReg _, rfl, rfl, rfl, rfl,
    resetBlock_readByte _, rfl⟩

/-! ### The same bytes written again (R57) -/

theorem Memory.takeWhile_eq_nil_of_head {m : Memory} {a : Nat} (h : ∀ cell ∈ m.head?, a ≤ cell.1) :
    m.takeWhile (fun cell => decide (cell.1 < a)) = [] := by
  cases m with
  | nil => rfl
  | cons cell m =>
    have hge : a ≤ cell.1 := h cell rfl
    simp [Nat.not_lt.2 hge]

/-- A write leaves the cells below its range as they were. -/
theorem Memory.takeWhile_writeRange (m : Memory) (a : Nat) (vs : List Byte) :
    (m.writeRange a vs).takeWhile (fun cell => decide (cell.1 < a)) = m.takeWhile (fun cell => decide (cell.1 < a)) := by
  have hbelow : ∀ cell ∈ m.takeWhile (fun cell => decide (cell.1 < a)), decide (cell.1 < a) = true := fun cell hc =>
    decide_eq_true (Memory.takeWhile_lt m a cell hc)
  have hrest : (Memory.cells a vs ++ m.seek (a + vs.length)).takeWhile (fun cell => decide (cell.1 < a)) = [] := by
    refine Memory.takeWhile_eq_nil_of_head ?_
    cases vs with
    | nil => exact Memory.seek_head_ge m a
    | cons v vs => simp [Memory.cells]
  rw [Memory.writeRange, List.append_assoc, List.takeWhile_append_of_pos hbelow, hrest, List.append_nil]

/-- A write leaves the cells above its range as they were. -/
theorem Memory.seek_writeRange (m : Memory) (a : Nat) (vs : List Byte) :
    (m.writeRange a vs).seek (a + vs.length) = m.seek (a + vs.length) := by
  have hbelow : ∀ cell ∈ m.takeWhile (fun cell => decide (cell.1 < a)) ++ Memory.cells a vs, cell.1 < a + vs.length := by
    intro cell hc
    rcases List.mem_append.1 hc with hc | hc
    · exact Nat.lt_add_right _ (Memory.takeWhile_lt m a cell hc)
    · exact (Memory.mem_cells hc).2
  rw [Memory.writeRange, Memory.seek_append_of_lt _ _ _ hbelow, Memory.seek_seek m (Nat.le_refl _)]

/-- Writing the same bytes to the same place again changes nothing, not even the form of the list. -/
theorem Memory.writeRange_writeRange (m : Memory) (a : Nat) (vs : List Byte) :
    (m.writeRange a vs).writeRange a vs = m.writeRange a vs := by
  rw [Memory.writeRange, Memory.takeWhile_writeRange, Memory.seek_writeRange]
  rfl

/-! ### The same stage run again (R112, R170, R185)

A stage changes nothing in a state that holds its results already: those it has from a state `s` that agrees on what it reads. -/

theorem quantStage_eq_self (c : Config) (w h : Nat) (p : QuantParams) {s t : State} (hpix : t.pix = s.pix)
    (hepoch : t.epoch = s.epoch) (hmono : t.mono = (quantStage c w h p s).mono) : quantStage c w h p t = t := by
  have hread : t.lumas (w * h) = s.lumas (w * h) := by
    simp only [State.lumas, State.readBytes, State.buffer_pix, hpix, hepoch]
  have hagain : (quantStage c w h p t).mono = t.mono := by
    rw [quantStage_mono, hread, hmono, quantStage_mono, Memory.writeRange_writeRange]
  exact congrArg (fun m => { t with mono := m }) hagain

theorem packStage_eq_self (w h : Nat) {s t : State} (hmono : t.mono = s.mono) (hepoch : t.epoch = s.epoch)
    (hpayload : t.payload = (packStage w h s).payload) (hplen : t.plen = (packStage w h s).plen) :
    packStage w h t = t := by
  have hread : t.readBytes .mono 0 (w * h) = s.readBytes .mono 0 (w * h) := by
    simp only [State.readBytes, State.buffer_mono, hmono, hepoch]
  have hagain : (packStage w h t).payload = t.payload := by
    rw [packStage_payload, hread, hpayload, packStage_payload, Memory.writeRange_writeRange]
  exact congrArg₂ (fun m n => { t with payload := m, plen := n }) hagain hplen.symm

theorem frameStage_eq_self {s t : State} (hpayload : t.payload = s.payload) (hepoch : t.epoch = s.epoch)
    (hframe : t.frame = (frameStage s).frame) (hflen : t.flen = (frameStage s).flen) : frameStage t = t := by
  have hread : t.readBytes .payload 0 payloadLen = s.readBytes .payload 0 payloadLen := by
    simp only [State.readBytes, State.buffer_payload, hpayload, hepoch]
  have hagain : (frameStage t).frame = t.frame := by
    rw [frameStage_frame, hread, hframe, frameStage_frame, Memory.writeRange_writeRange]
  exact congrArg₂ (fun m n => { t with frame := m, flen := n }) hagain hflen.symm

/-- Packing and framing together, the one reading what the other wrote (R188, R191). -/
theorem packAndFrame_eq_self (w h : Nat) {s t : State} (hmono : t.mono = s.mono) (hepoch : t.epoch = s.epoch)
    (hpayload : t.payload = (packStage w h s).payload) (hplen : t.plen = (packStage w h s).plen)
    (hframe : t.frame = (frameStage (packStage w h s)).frame) (hflen : t.flen = (frameStage (packStage w h s)).flen) :
    frameStage (packStage w h t) = t := by
  rw [packStage_eq_self w h hmono hepoch hpayload hplen, frameStage_eq_self hpayload hepoch hframe hflen]

/-! ### The same command issued again (R263) -/

/-- The job of a request, run again after the request has completed, changes nothing: no stage writes what an earlier one reads
(R191). -/
theorem results_afterCompletion (c : Config) (word : Word) (r : Request) (s : State) :
    results c (afterCompletion c word r s) (r.job s.imageW s.imageH) = afterCompletion c word r s := by
  cases r with
  | quant alg t m inv => exact quantStage_eq_self c _ _ _ (s := s) rfl rfl rfl
  | pack => exact packStage_eq_self _ _ (s := s) rfl rfl rfl rfl
  | frame => exact frameStage_eq_self (s := s) rfl rfl rfl rfl
  | encode => exact packAndFrame_eq_self _ _ (s := s) rfl rfl rfl rfl rfl rfl
  | convert alg t m inv =>
    have hquantised : quantStage c s.imageW s.imageH (effectiveParams alg t m inv)
        (afterCompletion c word (.convert alg t m inv) s) = afterCompletion c word (.convert alg t m inv) s :=
      quantStage_eq_self c _ _ _ (s := s) rfl rfl rfl
    rw [Request.job, results, hquantised]
    exact packAndFrame_eq_self _ _ (s := quantStage c s.imageW s.imageH (effectiveParams alg t m inv) s)
      rfl rfl rfl rfl rfl rfl

/-- A completed command leaves the registers from which a job takes its geometry alone. -/
theorem job_afterCompletion (c : Config) (word : Word) (r : Request) (s : State) (r' : Request) :
    r'.job (afterCompletion c word r s).imageW (afterCompletion c word r s).imageH = r'.job s.imageW s.imageH := by
  cases r <;> rfl

/-- The end state of a command is the end state of the same command issued in it (R263), under every configuration. -/
theorem afterCompletion_afterCompletion (c : Config) (word : Word) (r : Request) (s : State) :
    afterCompletion c word r (afterCompletion c word r s) = afterCompletion c word r s := by
  rw [afterCompletion, job_afterCompletion, results_afterCompletion]
  rfl

/-- With the payload length of a page every request passes its checks on a 240 by 96 raster (R216). -/
theorem ReadyForFrame.accepted {s : State} (hs : ReadyForFrame s) (hplen : s.plen = 2880#32) (r : Request) :
    rejection defaultConfig r s = none := by
  cases r with
  | quant alg t m inv => exact hs.raster.quant_accepted alg t m inv
  | pack => exact hs.raster.pack_accepted
  | frame => rw [rejection_frame, if_neg (not_not.2 hplen)]
  | encode => exact hs.encode_accepted
  | convert alg t m inv => exact hs.convert_accepted alg t m inv

/-- On a 240 by 96 raster a command that packs leaves the payload length of a page, any other the one it found (R25). -/
theorem ReadyForFrame.afterCompletion_plen {s : State} (hs : ReadyForFrame s) (hplen : s.plen = 2880#32) (c : Config)
    (word : Word) (r : Request) : (afterCompletion c word r s).plen = 2880#32 := by
  cases r with
  | quant | frame => exact hplen
  | pack | encode | convert => exact congrArg (BitVec.ofNat 32) hs.packedLen_eq

/-- Settles O37: both runs are those of an accepted request, and the second ends where the first did by
`afterCompletion_afterCompletion`. -/
theorem sameCommandTwiceGivesTheSameState : Obligations.SameCommandTwiceGivesTheSameState := by
  intro i s hs hplen hclr
  rcases requestOf_cases i with ⟨r, hi⟩ | ⟨alg, t, m, inv, rfl⟩
  · obtain ⟨a, hexec, -, hstep, hfinished⟩ := runsTo_afterCompletion hi hs.1 (hs.accepted hplen r)
    have hu := hs.of_finished hfinished
    have hagain := step_accept (encode i) r (afterCompletion defaultConfig (encode i) r s)
    rw [afterCompletion_afterCompletion] at hagain
    exact ⟨a, _, _, hexec, hstep,
      exec_accepted hi hu.1 (hu.accepted (hs.afterCompletion_plen hplen defaultConfig (encode i) r) r), hagain⟩
  · exact absurd rfl (hclr alg t m inv)

end Sys2Proof.Machine
